-- ==== Sys2Proof/Word.lean ====
section
/-! DEFINITION. The word types of the engine (00_scope.md R9) and their plainest arithmetic. -/

namespace Sys2Proof

/-- A byte: 8 bits, unsigned (R9). Everything on the wire is a sequence of these (R32). -/
abbrev Byte := BitVec 8

/-- A decoded numeric record field: 16 bits, unsigned (R16, R61). -/
abbrev Half := BitVec 16

/-- Bitwise complement of a byte, `~x = x ^ 0xFF` (R9). -/
abbrev Byte.complement (x : Byte) : Byte := ~~~x

end Sys2Proof
end

