-- ==== Sys2Proof/Config.lean ====
section
/-! DEFINITION. What an implementation fixes: the constants of R6 and the parameters of R7.

The constants are plain definitions. The three parameters on which a rule's outcome depends
(`LEN_EXCL`, `REC_ENDIAN`, `WRITE_ACK_CMD`) form one record that every operation takes as an
argument and that the machine carries in `State.cfg`, so that a statement about every state is a
statement about every admissible parameter setting (log 7). `NUMW`, `CHW`, `TXT_MAX` and `IBUF_SIZE`
are rendered unbounded, which R7 calls faithful (log 8); `MAX_PAYLOAD` follows from `LEN_EXCL`; on
`REGMAP` no rule depends (log 12). -/

namespace Sys2Proof

/-- Byte order of the six 2-byte record fields (R33). -/
inductive Endian where
  | big
  | little
  deriving DecidableEq, Repr

/-- The parameters of R7 that a rule depends on. -/
structure Config where
  /-- `LEN_EXCL`: leading frame bytes the length byte does not count; 0, 1 or 2 (R7, D1). -/
  lenExcl : Fin 3
  /-- `REC_ENDIAN` (R7, R33, D3). -/
  recEndian : Endian
  /-- `WRITE_ACK_CMD`: command code of a write acknowledgement (R7, R151, D4). -/
  writeAckCmd : Byte
  deriving DecidableEq, Repr

/-- The decided values of R7. -/
def Config.decided : Config := { lenExcl := 0, recEndian := .big, writeAckCmd := 0x12 }

/-- `MAX_PAYLOAD = 250 + LEN_EXCL` (R7, D2). -/
def Config.maxPayload (cfg : Config) : Nat := 250 + cfg.lenExcl.val

/-- Size of the longest frame and of `OBUF` and `DF.BUF`, `255 + LEN_EXCL` (R30, R54). -/
def Config.maxFrame (cfg : Config) : Nat := 255 + cfg.lenExcl.val

/-- `HEADER`, first byte of every frame (R6). -/
abbrev HEADER : Byte := 0xEF
/-- `TERM`, last byte of every frame (R6). -/
abbrev TERM : Byte := 0xFE
/-- `CMD_READ` (R6, R56). -/
abbrev CMD_READ : Byte := 0x11
/-- `CMD_WRITE` (R6, R56). -/
abbrev CMD_WRITE : Byte := 0x12
/-- `STA_OK` (R6, R57). -/
abbrev STA_OK : Byte := 0x00
/-- `STA_AUTH` (R6, R57). -/
abbrev STA_AUTH : Byte := 0x01
/-- `STA_NOTAG` (R6, R57). -/
abbrev STA_NOTAG : Byte := 0x02
/-- `NCHAN`, the number of channels (R6). -/
abbrev NCHAN : Nat := 8
/-- `REC_SIZE`, bytes of an encoded tag record (R6, R60). -/
abbrev REC_SIZE : Nat := 112
/-- Width of `manufacturer` (R6, R60). -/
abbrev W_MANUF : Nat := 16
/-- Width of `material` (R6, R60). -/
abbrev W_MATERIAL : Nat := 16
/-- Width of `color` (R6, R60). -/
abbrev W_COLOR : Nat := 32
/-- Width of the reserved remainder (R6, R63). -/
abbrev W_RESERVED : Nat := 36

end Sys2Proof
end

