-- ==== Sys2Proof/Syntax.lean ====
section
/-! DEFINITION. The instructions: one constructor per row of spec/opcode_table.json (R67, R70).

Twelve rows are operations. Their encoding is the 4-bit `OP` code alone; operands are on the operand
ports (R13), so the constructors take no argument. Twelve rows are frame shapes. Such a row fixes
some of the first four bytes of a frame, in one mode of `expectStatus` (R67); its constructor takes
the bytes of those four that the row leaves free and the `tail`, all bytes of the frame from offset 4
on (record image, surplus, checksum byte and terminator stand there, right or wrong: whether they are
right is for the operation to judge, not for the row). -/

namespace Sys2Proof

inductive Instr where
  /-- `BCC.COMPUTE`, OP 0x1 (R81) -/
  | bccCompute
  /-- `BCC.VERIFY`, OP 0x2 (R82) -/
  | bccVerify
  /-- `REC.ENCODE`, OP 0x3 (R96) -/
  | recEncode
  /-- `REC.DECODE`, OP 0x4 (R100) -/
  | recDecode
  /-- `FRM.BUILD`, OP 0x5 (R111) -/
  | frmBuild
  /-- `FRM.PARSE`, OP 0x6 (R114) -/
  | frmParse
  /-- `CMD.READ`, OP 0x7 (R141) -/
  | cmdRead
  /-- `CMD.WRITE`, OP 0x8 (R142) -/
  | cmdWrite
  /-- `RSP.READ`, OP 0x9 (R153) -/
  | rspRead
  /-- `RSP.WRITE`, OP 0xA (R154) -/
  | rspWrite
  /-- `DFR.INIT`, OP 0xB (R121) -/
  | dfrInit
  /-- `DFR.FEED`, OP 0xC (R122 to R126) -/
  | dfrFeed
  /-- `READ_REQ`: `EF 06 11 cc ...`, expectStatus = false (R64, R67) -/
  | readReq (channel : Byte) (tail : List Byte)
  /-- `WRITE_REQ`: `EF 76 12 cc ...`, expectStatus = false (R64, R67) -/
  | writeReq (channel : Byte) (tail : List Byte)
  /-- `READ_RSP_OK`: `EF LL 11 00 ...`, expectStatus = true (R64, R67) -/
  | readRspOk (len : Byte) (tail : List Byte)
  /-- `READ_RSP_AUTH`: `EF LL 11 01 ...`, expectStatus = true (R64, R67) -/
  | readRspAuth (len : Byte) (tail : List Byte)
  /-- `READ_RSP_NOTAG`: `EF LL 11 02 ...`, expectStatus = true (R64, R67) -/
  | readRspNotag (len : Byte) (tail : List Byte)
  /-- `READ_RSP_UNKNOWN`: `EF LL 11 ss ...`, ss above 0x02, expectStatus = true (R67) -/
  | readRspUnknown (len status : Byte) (tail : List Byte)
  /-- `WRITE_RSP_OK`: `EF LL 12 00 ...`, expectStatus = true (R64, R67) -/
  | writeRspOk (len : Byte) (tail : List Byte)
  /-- `WRITE_RSP_KEYERR`: `EF LL 12 01 ...`, expectStatus = true (R64, R67) -/
  | writeRspKeyerr (len : Byte) (tail : List Byte)
  /-- `WRITE_RSP_NOTAG`: `EF LL 12 02 ...`, expectStatus = true (R64, R67) -/
  | writeRspNotag (len : Byte) (tail : List Byte)
  /-- `WRITE_RSP_UNKNOWN`: `EF LL 12 ss ...`, ss above 0x02, expectStatus = true (R67) -/
  | writeRspUnknown (len status : Byte) (tail : List Byte)
  /-- `GENERIC_CMD_FRAME`: `EF LL cm dd ...`, expectStatus = false (R67, R113) -/
  | genericCmdFrame (len command third : Byte) (tail : List Byte)
  /-- `GENERIC_RSP_FRAME`: `EF LL cm ss ...`, expectStatus = true (R67, R113) -/
  | genericRspFrame (len command status : Byte) (tail : List Byte)
  deriving DecidableEq, Repr

/-- What the caller puts in front of the engine to start it: the encoded form of an instruction. -/
inductive Fetch where
  /-- a value written to the 4-bit port `OP`; writing it starts the operation (R70) -/
  | op (code : BitVec 4)
  /-- a byte sequence handed over as a frame, with the mode `expectStatus` in force (R65, R67) -/
  | frame (expectStatus : Bool) (bytes : List Byte)
  deriving DecidableEq, Repr

end Sys2Proof
end

