-- ==== Sys2Proof/WellFormed.lean ====
section
/-! DEFINITION. Which instruction terms stand for an encoding: those whose row is the FIRST one their
bytes match (R67: rows overlap, file order decides). -/

namespace Sys2Proof

/-- The two command-frame rows that come before `GENERIC_CMD_FRAME`: `EF 06 11` and `EF 76 12`. -/
def isFixedCommandPrefix (len command : Byte) : Bool :=
  (len == 0x06 && command == CMD_READ) || (len == 0x76 && command == CMD_WRITE)

/-- The status rows that come before the `_UNKNOWN` rows take 0x00 to 0x02 (R57, R67). -/
def isKnownStatus (status : Byte) : Bool :=
  status == STA_OK || status == STA_AUTH || status == STA_NOTAG

/-- The term's bytes match the row of its constructor and no earlier row of its mode (R67). -/
def Instr.wellFormed : Instr → Bool
  | .bccCompute | .bccVerify | .recEncode | .recDecode | .frmBuild | .frmParse
  | .cmdRead | .cmdWrite | .rspRead | .rspWrite | .dfrInit | .dfrFeed => true
  | .readReq _ _ | .writeReq _ _ => true
  | .readRspOk _ _ | .readRspAuth _ _ | .readRspNotag _ _ => true
  | .readRspUnknown _ status _ => !isKnownStatus status
  | .writeRspOk _ _ | .writeRspKeyerr _ _ | .writeRspNotag _ _ => true
  | .writeRspUnknown _ status _ => !isKnownStatus status
  | .genericCmdFrame len command _ _ => !isFixedCommandPrefix len command
  | .genericRspFrame _ command _ _ => !(command == CMD_READ || command == CMD_WRITE)

end Sys2Proof
end

