-- ==== Sys2Proof/Decode.lean ====
section
/-! DEFINITION. The decoder, total on every `OP` code and every byte sequence in either mode, rejecting
by name; then the encoder, written from the same tables (R64, R67, R70). -/

namespace Sys2Proof

/-- Why something the caller issued is no instruction. -/
inductive DecodeError where
  /-- the `OP` codes 0x0, 0xD, 0xE, 0xF select no operation (R73) -/
  | noOperation (code : BitVec 4)
  /-- no row of the frame table matches: fewer than four bytes, or a first byte other than 0xEF (R67) -/
  | noFrameRow (bytes : List Byte)
  deriving DecidableEq, Repr

/-- The operation an `OP` code selects (R70, R73). -/
def decodeOp (code : BitVec 4) : Except DecodeError Instr :=
  match code with
  | 0x1#4 => .ok .bccCompute
  | 0x2#4 => .ok .bccVerify
  | 0x3#4 => .ok .recEncode
  | 0x4#4 => .ok .recDecode
  | 0x5#4 => .ok .frmBuild
  | 0x6#4 => .ok .frmParse
  | 0x7#4 => .ok .cmdRead
  | 0x8#4 => .ok .cmdWrite
  | 0x9#4 => .ok .rspRead
  | 0xA#4 => .ok .rspWrite
  | 0xB#4 => .ok .dfrInit
  | 0xC#4 => .ok .dfrFeed
  | _ => .error (.noOperation code)

/-- The first row of mode expectStatus = false that `EF len command third ...` matches (R67). -/
def decodeCmdFrame (len command third : Byte) (tail : List Byte) : Instr :=
  if len = 0x06 ∧ command = CMD_READ then .readReq third tail
  else if len = 0x76 ∧ command = CMD_WRITE then .writeReq third tail
  else .genericCmdFrame len command third tail

/-- The first row of mode expectStatus = true that `EF len command status ...` matches (R67). -/
def decodeRspFrame (len command status : Byte) (tail : List Byte) : Instr :=
  if command = CMD_READ then
    if status = STA_OK then .readRspOk len tail
    else if status = STA_AUTH then .readRspAuth len tail
    else if status = STA_NOTAG then .readRspNotag len tail
    else .readRspUnknown len status tail
  else if command = CMD_WRITE then
    if status = STA_OK then .writeRspOk len tail
    else if status = STA_AUTH then .writeRspKeyerr len tail
    else if status = STA_NOTAG then .writeRspNotag len tail
    else .writeRspUnknown len status tail
  else .genericRspFrame len command status tail

/-- The frame row a byte sequence matches in a mode (R67). -/
def decodeFrame (expectStatus : Bool) (bytes : List Byte) : Except DecodeError Instr :=
  match bytes with
  | b0 :: b1 :: b2 :: b3 :: tail =>
    if b0 = HEADER then
      if expectStatus then .ok (decodeRspFrame b1 b2 b3 tail)
      else .ok (decodeCmdFrame b1 b2 b3 tail)
    else .error (.noFrameRow bytes)
  | _ => .error (.noFrameRow bytes)

/-- The decoder. -/
def decode : Fetch → Except DecodeError Instr
  | .op code => decodeOp code
  | .frame expectStatus bytes => decodeFrame expectStatus bytes

/-- The encoder: the `OP` code of an operation (R70), the frame and mode of a frame row (R67). -/
def encode : Instr → Fetch
  | .bccCompute => .op 0x1#4
  | .bccVerify => .op 0x2#4
  | .recEncode => .op 0x3#4
  | .recDecode => .op 0x4#4
  | .frmBuild => .op 0x5#4
  | .frmParse => .op 0x6#4
  | .cmdRead => .op 0x7#4
  | .cmdWrite => .op 0x8#4
  | .rspRead => .op 0x9#4
  | .rspWrite => .op 0xA#4
  | .dfrInit => .op 0xB#4
  | .dfrFeed => .op 0xC#4
  | .readReq ch tail => .frame false (HEADER :: 0x06 :: CMD_READ :: ch :: tail)
  | .writeReq ch tail => .frame false (HEADER :: 0x76 :: CMD_WRITE :: ch :: tail)
  | .readRspOk len tail => .frame true (HEADER :: len :: CMD_READ :: STA_OK :: tail)
  | .readRspAuth len tail => .frame true (HEADER :: len :: CMD_READ :: STA_AUTH :: tail)
  | .readRspNotag len tail => .frame true (HEADER :: len :: CMD_READ :: STA_NOTAG :: tail)
  | .readRspUnknown len status tail => .frame true (HEADER :: len :: CMD_READ :: status :: tail)
  | .writeRspOk len tail => .frame true (HEADER :: len :: CMD_WRITE :: STA_OK :: tail)
  | .writeRspKeyerr len tail => .frame true (HEADER :: len :: CMD_WRITE :: STA_AUTH :: tail)
  | .writeRspNotag len tail => .frame true (HEADER :: len :: CMD_WRITE :: STA_NOTAG :: tail)
  | .writeRspUnknown len status tail => .frame true (HEADER :: len :: CMD_WRITE :: status :: tail)
  | .genericCmdFrame len command third tail => .frame false (HEADER :: len :: command :: third :: tail)
  | .genericRspFrame len command status tail => .frame true (HEADER :: len :: command :: status :: tail)

/-- The byte at bits `8k+7 .. 8k` of a number. -/
def byteOfNat (w k : Nat) : Byte := BitVec.ofNat 8 (w >>> (8 * k))

/-- The mode of the first row in file order, of either mode, that a frame's first three bytes match.
A table word carries no mode, so the table's own order has to give it (R67; DESIGN CHOICE, log 10):
`EF 06 11` and `EF 76 12` are command rows, any other frame of command 0x11 or 0x12 meets a response
row first, and what is left meets `GENERIC_CMD_FRAME`. -/
def tableMode (len command : Byte) : Bool :=
  !isFixedCommandPrefix len command && (command == CMD_READ || command == CMD_WRITE)

/-- What the caller issues for a table word. Up to 8 bits: the `OP` code in bits 3..0 (R70). More: a
frame whose bytes 0 to 3 stand in bits 31:24, 23:16, 15:8 and 7:0 (R67), filled up with zero bytes to
the size its length byte declares. -/
def tableFetch (nbits w : Nat) : Fetch :=
  if nbits ≤ 8 then .op (BitVec.ofNat 4 w)
  else
    let len := byteOfNat w 2
    let command := byteOfNat w 1
    .frame (tableMode len command)
      (byteOfNat w 3 :: len :: command :: byteOfNat w 0 :: List.replicate (len.toNat - 4) 0x00)

/-- The instruction the decoder reads from a table word. -/
def decodeTableWord (nbits w : Nat) : Option Instr :=
  match decode (tableFetch nbits w) with
  | .ok i => some i
  | .error _ => none

end Sys2Proof
end

