-- ==== Sys2Proof/Machine/State.lean ====
section
/-! DEFINITION. The state of the engine as plain data, the reasons a step can stop, and power-on reset
(10_state.md). `ILEN`, `OLEN`, `P.DLEN` and the lengths of the texts are the lengths of the lists that
stand for their buffers (R30, log 9); they are read through Operands.lean. -/

namespace Sys2Proof.Machine

/-! ## Values carried by the ports -/

/-- The error kinds of R171. `None`, code 0, is `none : Option ErrorKind` on the port `ERR`. -/
inductive ErrorKind where
  | payloadTooLarge
  | invalidChannel
  | fieldOverflow
  | invalidLength
  | incomplete
  | checksumMismatch
  | malformedResponse
  /-- code 8, reserved: never raised, an unknown status is an outcome (R179) -/
  | unknownStatus
  deriving DecidableEq, Repr

/-- The tags of `OUTCOME` (R150). -/
inductive OutcomeTag where
  | tagPresent
  | tagAbsent
  | authFailure
  | unknownStatus
  | writeOk
  | keyError
  deriving DecidableEq, Repr

/-- The events of the deframer, on `EVT` (R126). -/
inductive Event where
  | incomplete
  | frame
  | error
  deriving DecidableEq, Repr

/-- The states of the deframer, `DF.STATE` (R17, R18). -/
inductive DfState where
  | awaitingHeader
  | awaitingLength
  | awaitingBody
  | complete
  deriving DecidableEq, Repr

/-- The record operand file `R.*` (R16): numbers of any size, texts of any length (log 8). -/
structure RecordOperand where
  version : Nat
  manufacturer : List Byte
  material : List Byte
  color : List Byte
  diameter : Nat
  weight : Nat
  printTemp : Nat
  bedTemp : Nat
  density : Nat
  deriving DecidableEq, Repr

/-- A decoded `TagRecord`, the result file `D.*` (R16, R90). -/
structure TagRecord where
  version : Half
  manufacturer : List Byte
  material : List Byte
  color : List Byte
  diameter : Half
  weight : Half
  printTemp : Half
  bedTemp : Half
  density : Half
  deriving DecidableEq, Repr

/-- A byte-addressed buffer that is kept between operations: (offset, byte) cells, offsets strictly
rising. An offset not listed has no value (R23, R24, log 4). -/
abbrev Memory := List Host.Cell

/-- The canonical form: offsets strictly rising. No listed cell equals what an unlisted offset reads as,
since an unlisted offset has no value at all. -/
def Memory.wf : Memory → Bool
  | [] => true
  | [_] => true
  | c :: d :: rest => decide (c.1 < d.1) && Memory.wf (d :: rest)

/-! ## The parts of the state -/

/-- The operand ports of R13, written by the caller only. -/
structure OperandPorts where
  /-- `OP` -/
  op : BitVec 4
  /-- `IBUF[0..ILEN-1]` -/
  ibuf : List Byte
  /-- `CLAIM` -/
  claim : Byte
  /-- `CMD_IN` -/
  cmdIn : Byte
  /-- `ES_IN` -/
  esIn : Bool
  /-- `CHAN_IN`, signed -/
  chanIn : Int
  /-- `RX` -/
  rx : Byte
  /-- `R.*` -/
  record : RecordOperand
  deriving DecidableEq, Repr

/-- The result ports of R14, by name (`D.*` is one row of R14 and one name here). -/
inductive ResultPort where
  | err
  | obuf
  | olen
  | bccOut
  | okBit
  | pCmd
  | pSta
  | pStaValid
  | pData
  | pDlen
  | outcome
  | oChan
  | oSta
  | warn
  | dRec
  | evt
  deriving DecidableEq, Repr

/-- The result ports of R14, written by the engine only. -/
structure ResultPorts where
  /-- `ERR` -/
  err : Option ErrorKind
  /-- `OBUF[0..OLEN-1]` -/
  obuf : List Byte
  /-- `BCC_OUT` -/
  bccOut : Byte
  /-- `OK` -/
  okBit : Bool
  /-- `P.CMD` -/
  pCmd : Byte
  /-- `P.STA` -/
  pSta : Byte
  /-- `P.STA_VALID` -/
  pStaValid : Bool
  /-- `P.DATA[0..P.DLEN-1]` -/
  pData : List Byte
  /-- `OUTCOME` -/
  outcome : OutcomeTag
  /-- `O.CHAN` -/
  oChan : Byte
  /-- `O.STA` -/
  oSta : Byte
  /-- `WARN` -/
  warn : Bool
  /-- `D.*` -/
  dRec : TagRecord
  /-- `EVT` -/
  evt : Event
  /-- the ports that may be read: after an operation those it wrote (R24, R202), after power-on all of
  them, with the values of log 2 -/
  held : List ResultPort
  deriving DecidableEq, Repr

/-- The deframer's registers (R17). -/
structure Deframer where
  /-- `DF.STATE` -/
  state : DfState
  /-- `DF.ES` -/
  es : Bool
  /-- `DF.LEN` -/
  len : Byte
  /-- `DF.CNT`: the bytes of the current frame already stored -/
  cnt : Nat
  /-- `DF.BUF` -/
  buf : Memory
  /-- `DF.INITED` -/
  inited : Bool
  deriving DecidableEq, Repr

/-! ## The caller (R10) -/

/-- A write of one operand port other than `OP` (R13, R16). -/
inductive PortWrite where
  | ibuf (bytes : List Byte)
  | claim (v : Byte)
  | cmdIn (v : Byte)
  | esIn (v : Bool)
  | chanIn (v : Int)
  | rx (v : Byte)
  | rVersion (v : Nat)
  | rManuf (v : List Byte)
  | rMaterial (v : List Byte)
  | rColor (v : List Byte)
  | rDiam (v : Nat)
  | rWeight (v : Nat)
  | rPtemp (v : Nat)
  | rBtemp (v : Nat)
  | rDens (v : Nat)
  deriving DecidableEq, Repr

/-- What the caller may read: a result port (R14), or `DF.STATE`, which R17 makes readable. -/
inductive ReadTarget where
  | port (p : ResultPort)
  | dfState
  deriving DecidableEq, Repr

/-- A value read from a port. -/
inductive PortValue where
  | err (v : Option ErrorKind)
  | bytes (v : List Byte)
  | count (v : Nat)
  | byte (v : Byte)
  | bit (v : Bool)
  | outcome (v : OutcomeTag)
  | record (v : TagRecord)
  | event (v : Event)
  | dfState (v : DfState)
  deriving DecidableEq, Repr

/-- One action of the caller (R10). -/
inductive CallerAct where
  /-- load an operand port -/
  | load (w : PortWrite)
  /-- issue an operation, or hand over a frame -/
  | issue (f : Fetch)
  /-- read a result port -/
  | read (t : ReadTarget)
  deriving DecidableEq, Repr

/-! ## The state -/

structure State where
  /-- the parameters in force (R7); the model's own field, changed by no step (log 7) -/
  cfg : Config
  /-- operand ports (R13) -/
  ops : OperandPorts
  /-- result ports (R14) -/
  res : ResultPorts
  /-- the deframer (R17) -/
  df : Deframer
  /-- the caller's actions to come, oldest first; the model's own field (R10, log 5) -/
  caller : List CallerAct
  /-- what the caller has read, newest first; the model's own field (R10, log 5) -/
  reads : List PortValue
  deriving DecidableEq, Repr

/-! ## How a step can stop -/

/-- Reasons the machine stops with a fault. -/
inductive Fault where
  /-- `DFR.FEED` in `AwaitingBody` with `DF.CNT` at or beyond `255 + LEN_EXCL`: `DF.BUF` has no such
  offset (R30). Raised by `execDfrFeed`, in no state that R17's invariants allow. Safe. -/
  | offsetOutsideBuffer (offset : Nat)
  deriving DecidableEq, Repr

/-- Reasons a step has no meaning. -/
inductive Refusal where
  /-- an arm of `exec` that has no meaning yet. Safe. -/
  | notModelled (mnemonic : String)
  /-- `step`: an `OP` code that selects no operation (R73, 93 U12). Safe. -/
  | noOperation (code : BitVec 4)
  /-- `step`: a byte sequence handed over as a frame that matches no row of the frame table (R67). The
  same bytes can always be given to an operation on `IBUF`. Safe. -/
  | noFrameRow (bytes : List Byte)
  /-- `BCC.COMPUTE`, `BCC.VERIFY` with `ILEN == 0` (R85, 93 U1). Safe. -/
  | emptyChecksumInput
  /-- `DFR.FEED` with `DF.INITED == 0` (R130, 93 U11). Safe. -/
  | feedBeforeInit
  /-- `DFR.FEED` started in `Complete`, which R125 says never happens. Safe. -/
  | feedInComplete
  /-- `DFR.FEED` at the end of a frame with a byte of `DF.BUF` that nothing has written (R24); in no
  state that R17's invariants allow. Safe. -/
  | bufferByteUnwritten
  /-- `step`: after some operation, the caller reads a result port that the last operation did not write,
  whether or not an earlier one did: R24 gives such a read no meaning, 93 U13 refuses it. Not raised
  between power-on and the first operation. Safe. -/
  | portHoldsNoValue (p : ResultPort)
  deriving DecidableEq, Repr

/-! ## Power-on reset (R22, R23) -/

/-- The record operand ports at power-on: R23 gives no value (DESIGN CHOICE, log 1). -/
def RecordOperand.reset : RecordOperand :=
  { version := 0, manufacturer := [], material := [], color := [], diameter := 0, weight := 0,
    printTemp := 0, bedTemp := 0, density := 0 }

/-- The record result ports at power-on: R23 gives no value (DESIGN CHOICE, log 2). -/
def TagRecord.reset : TagRecord :=
  { version := 0, manufacturer := [], material := [], color := [], diameter := 0, weight := 0,
    printTemp := 0, bedTemp := 0, density := 0 }

/-- The operand ports at power-on: R23 gives no value (DESIGN CHOICE, log 1). -/
def OperandPorts.reset : OperandPorts :=
  { op := 0, ibuf := [], claim := 0, cmdIn := 0, esIn := false, chanIn := 0, rx := 0,
    record := RecordOperand.reset }

/-- Every result port of R14. -/
def ResultPort.all : List ResultPort :=
  [.err, .obuf, .olen, .bccOut, .okBit, .pCmd, .pSta, .pStaValid, .pData, .pDlen, .outcome, .oChan, .oSta,
    .warn, .dRec, .evt]

/-- The result ports at power-on: R23 gives no value, the model names one for each (DESIGN CHOICE, log 2),
and until the first operation the caller may read them all. -/
def ResultPorts.reset : ResultPorts :=
  { err := none, obuf := [], bccOut := 0, okBit := false, pCmd := 0, pSta := 0, pStaValid := false,
    pData := [], outcome := .tagPresent, oChan := 0, oSta := 0, warn := false, dRec := TagRecord.reset,
    evt := .incomplete, held := ResultPort.all }

/-- The deframer at power-on: `DF.INITED`, `DF.STATE`, `DF.CNT` as R23 says; for `DF.ES` and `DF.LEN`
R23 gives no value (DESIGN CHOICE, log 3); no byte of `DF.BUF` is written. -/
def Deframer.reset : Deframer :=
  { state := .awaitingHeader, es := false, len := 0, cnt := 0, buf := [], inited := false }

/-- The machine right after power-on, with the decided parameters (R7) and a caller that has issued
nothing (R11, log 5). -/
def State.reset : State :=
  { cfg := Config.decided, ops := OperandPorts.reset, res := ResultPorts.reset, df := Deframer.reset,
    caller := [], reads := [] }

end Sys2Proof.Machine
end

