-- ==== Sys2Proof/Machine/Operands.lean ====
section
/-! DEFINITION. The operand forms: byte sequences and the slices of them (R9), the 16-bit numbers of the
record image (R33), its text fields (R93, R97), the channel (R140), the ports as the caller writes and
reads them (R12 to R14), and the numeric codes of what the ports carry (R13, R14, R150, R171). -/

namespace Sys2Proof.Machine

/-! ## Byte sequences (R9) -/

/-- `B[i]`; meaningful for `i < |B|` only, and used only there. -/
def byteAt (b : List Byte) (i : Nat) : Byte := b.getD i 0

/-- `MemRead(B, off, n)`, that is `B[off .. off+n-1]` (R9). -/
def slice (b : List Byte) (off n : Nat) : List Byte := (b.drop off).take n

/-- `rep(x, n)` (R9). -/
def rep (x : Byte) (n : Nat) : List Byte := List.replicate n x

/-! ## 16-bit numbers of the record image (R33, R61) -/

/-- The two bytes `U16Write` writes, in the order of their offsets (R33). -/
def u16Bytes (e : Endian) (v : Half) : List Byte :=
  match e with
  | .big => [v.extractLsb' 8 8, v.extractLsb' 0 8]
  | .little => [v.extractLsb' 0 8, v.extractLsb' 8 8]

/-- `U16Read(B, off)` (R33). -/
def u16Read (e : Endian) (b : List Byte) (off : Nat) : Half :=
  match e with
  | .big => byteAt b off ++ byteAt b (off + 1)
  | .little => byteAt b (off + 1) ++ byteAt b off

/-- The greatest value a numeric record field holds, 65535 (R91). -/
def numericMax : Nat := 0xFFFF

/-- A numeric operand that does not fit its field (R91, R95). -/
def overflows (v : Nat) : Bool := decide (v > numericMax)

/-! ## Text fields -/

/-- `Trunc(t, w)`: the first `w` bytes of `t`, or all of it (R93). -/
def trunc (t : List Byte) (w : Nat) : List Byte := t.take w

/-- `Pad0(t, w)` (R93). -/
def pad0 (t : List Byte) (w : Nat) : List Byte := t ++ rep 0x00 (w - t.length)

/-- The field image of a text (R93). -/
def textField (t : List Byte) (w : Nat) : List Byte := pad0 (trunc t w) w

/-- A byte that is padding at the end of a text field: NUL or space (R97). -/
def isPad (b : Byte) : Bool := b == 0x00 || b == 0x20

/-- `Strip(f)`: `f` without its longest suffix of padding bytes (R97). -/
def strip (f : List Byte) : List Byte := f.rdropWhile isPad

/-! ## The channel (R140) -/

/-- `0 <= CHAN_IN <= 7`, on the signed value. -/
def validChannel (ch : Int) : Bool := decide (0 ≤ ch ∧ ch < NCHAN)

/-- `CHAN_IN[7:0]` (R140). -/
def channelByte (ch : Int) : Byte := BitVec.ofInt 8 ch

/-! ## The ports as the caller sees them -/

/-- `ILEN` (R13). -/
def State.ilen (s : State) : Nat := s.ops.ibuf.length
/-- `OLEN` (R14). -/
def State.olen (s : State) : Nat := s.res.obuf.length
/-- `P.DLEN` (R14). -/
def State.pDlen (s : State) : Nat := s.res.pData.length

/-- A write of one operand port by the caller; every other port keeps its value (R13, R19). -/
def OperandPorts.write (o : OperandPorts) : PortWrite → OperandPorts
  | .ibuf b => { o with ibuf := b }
  | .claim v => { o with claim := v }
  | .cmdIn v => { o with cmdIn := v }
  | .esIn v => { o with esIn := v }
  | .chanIn v => { o with chanIn := v }
  | .rx v => { o with rx := v }
  | .rVersion v => { o with record := { o.record with version := v } }
  | .rManuf v => { o with record := { o.record with manufacturer := v } }
  | .rMaterial v => { o with record := { o.record with material := v } }
  | .rColor v => { o with record := { o.record with color := v } }
  | .rDiam v => { o with record := { o.record with diameter := v } }
  | .rWeight v => { o with record := { o.record with weight := v } }
  | .rPtemp v => { o with record := { o.record with printTemp := v } }
  | .rBtemp v => { o with record := { o.record with bedTemp := v } }
  | .rDens v => { o with record := { o.record with density := v } }

/-- The value a result port carries (R14). -/
def ResultPorts.value (r : ResultPorts) : ResultPort → PortValue
  | .err => .err r.err
  | .obuf => .bytes r.obuf
  | .olen => .count r.obuf.length
  | .bccOut => .byte r.bccOut
  | .okBit => .bit r.okBit
  | .pCmd => .byte r.pCmd
  | .pSta => .byte r.pSta
  | .pStaValid => .bit r.pStaValid
  | .pData => .bytes r.pData
  | .pDlen => .count r.pData.length
  | .outcome => .outcome r.outcome
  | .oChan => .byte r.oChan
  | .oSta => .byte r.oSta
  | .warn => .bit r.warn
  | .dRec => .record r.dRec
  | .evt => .event r.evt

/-- What the caller reads: a port that holds a value, or `DF.STATE`, which always has one (R23). After an
operation, a port that it did not write holds no value and the read is refused (R24, R202, 93 U13). After
power-on every port has the value of log 2. -/
def State.readTarget (s : State) : ReadTarget → Except Refusal PortValue
  | .port p => if p ∈ s.res.held then .ok (s.res.value p) else .error (.portHoldsNoValue p)
  | .dfState => .ok (.dfState s.df.state)

/-! ## Numeric codes -/

/-- The codes of `ERR` (R171). -/
def errCode : Option ErrorKind → BitVec 4
  | none => 0
  | some .payloadTooLarge => 1
  | some .invalidChannel => 2
  | some .fieldOverflow => 3
  | some .invalidLength => 4
  | some .incomplete => 5
  | some .checksumMismatch => 6
  | some .malformedResponse => 7
  | some .unknownStatus => 8

/-- The codes of `OUTCOME` (R150). -/
def outcomeCode : OutcomeTag → BitVec 3
  | .tagPresent => 0
  | .tagAbsent => 1
  | .authFailure => 2
  | .unknownStatus => 3
  | .writeOk => 4
  | .keyError => 5

/-- The codes of `EVT` (R14). -/
def eventCode : Event → BitVec 2
  | .incomplete => 0
  | .frame => 1
  | .error => 2

/-- The codes of `DF.STATE` (R17). -/
def dfStateCode : DfState → BitVec 2
  | .awaitingHeader => 0
  | .awaitingLength => 1
  | .awaitingBody => 2
  | .complete => 3

end Sys2Proof.Machine
end

