-- ==== Sys2Proof/Machine/Flags.lean ====
section
/-! DEFINITION. The three one-bit results that play the part of flags (R15): `OK`, `WARN` and
`P.STA_VALID`, each as a function of what it is computed from. `BCC` stands here too, since `OK` is a
comparison with it. -/

namespace Sys2Proof.Machine

/-- Exclusive-or of all bytes of a sequence, from the identity `0x00` (R80, R81). -/
def xorAll (b : List Byte) : Byte := b.foldl (· ^^^ ·) 0x00

/-- `BCC(B)`, for non-empty `B` (R80): the complement of the exclusive-or of its bytes. -/
def bcc (b : List Byte) : Byte := Byte.complement (xorAll b)

/-- `OK`: the recomputed checksum equals the claimed one (R15, R82). -/
def okFlag (b : List Byte) (claim : Byte) : Bool := bcc b == claim

/-- `WARN` of the record decoder: bytes beyond the 112th were ignored (R15, R99). -/
def warnRecord (b : List Byte) : Bool := decide (b.length > REC_SIZE)

/-- `WARN` of an outcome that uses the channel byte only: further data bytes were ignored (R15, R157). -/
def warnSurplus (data : List Byte) : Bool := decide (data.length > 1)

/-- `P.STA_VALID`: the parsed frame has a status (R14, R15, R112). -/
def staValidFlag (status : Option Byte) : Bool := status.isSome

end Sys2Proof.Machine
end

