-- ==== Sys2Proof/Machine/Ops.lean ====
section
/-! DEFINITION. The shared operations: the buffer `DF.BUF` (R30), the functions the source names
(`EncodeRecord`, `DecodeRecord`, `BuildFrame`, `ParseFrame`, `Interpret`), and how an operation ends:
with its results, or by raising one error kind (R180), which is all that stands in this hardware for
taking an exception. There is no return from one (R184). -/

namespace Sys2Proof.Machine

/-! ## The buffer -/

/-- The byte at an offset, none where nothing has written it (R24). -/
def Memory.read (m : Memory) (a : Nat) : Option Byte :=
  match m with
  | [] => none
  | c :: rest => if c.1 = a then some c.2 else Memory.read rest a

/-- `BUF[a] <- v`, keeping the canonical form. -/
def Memory.write (m : Memory) (a : Nat) (v : Byte) : Memory :=
  match m with
  | [] => [(a, v)]
  | c :: rest =>
    if a < c.1 then (a, v) :: c :: rest
    else if a = c.1 then (a, v) :: rest
    else c :: Memory.write rest a v

/-- `BUF[off .. off+n-1]`, none where a byte of it has no value. -/
def Memory.readRange (m : Memory) (off n : Nat) : Option (List Byte) :=
  match n with
  | 0 => some []
  | n + 1 =>
    match Memory.read m off, Memory.readRange m (off + 1) n with
    | some b, some bs => some (b :: bs)
    | _, _ => none

/-! ## How an operation ends -/

/-- `return` with results: the ports it writes are as in `r`, `ERR` is `None`, and the ports that hold
a value are those and `ERR` (R9, R14, R24). -/
def State.finish (s : State) (r : ResultPorts) (ports : List ResultPort) : State :=
  { s with res := { r with err := none, held := .err :: ports } }

/-- `raise e`: `ERR` is written, and nothing else (R9, R180). -/
def State.raise (s : State) (e : ErrorKind) : State :=
  { s with res := { s.res with err := some e, held := [.err] } }

/-- What an operation computed: its error kind, or its result ports and which of them it wrote. -/
abbrev OpResult := Except ErrorKind (ResultPorts × List ResultPort)

/-- The end of a one-shot operation (R170): exactly one of its results and one error kind. -/
def State.settle (s : State) : OpResult → State
  | .ok (r, ports) => s.finish r ports
  | .error e => s.raise e

/-! ## TagRecordCodec -/

/-- Any of the six numeric operands does not fit (R95). -/
def RecordOperand.overflows (r : RecordOperand) : Bool :=
  Machine.overflows r.version || Machine.overflows r.diameter || Machine.overflows r.weight ||
    Machine.overflows r.printTemp || Machine.overflows r.bedTemp || Machine.overflows r.density

/-- A representable number as its 16-bit value (R61). -/
def half (v : Nat) : Half := BitVec.ofNat 16 v

/-- The 112-byte image of a record whose numbers fit: each field at its offset, in declaration order,
then the zero-filled reserved bytes (R60, R63, R95). -/
def recordImage (cfg : Config) (r : RecordOperand) : List Byte :=
  u16Bytes cfg.recEndian (half r.version) ++
  textField r.manufacturer W_MANUF ++
  textField r.material W_MATERIAL ++
  textField r.color W_COLOR ++
  u16Bytes cfg.recEndian (half r.diameter) ++
  u16Bytes cfg.recEndian (half r.weight) ++
  u16Bytes cfg.recEndian (half r.printTemp) ++
  u16Bytes cfg.recEndian (half r.bedTemp) ++
  u16Bytes cfg.recEndian (half r.density) ++
  rep 0x00 W_RESERVED

/-- `EncodeRecord(r)` (R95): all range checks first, then the image. -/
def encodeRecord (cfg : Config) (r : RecordOperand) : Except ErrorKind (List Byte) :=
  if r.overflows then .error .fieldOverflow else .ok (recordImage cfg r)

/-- The record of an image of at least 112 bytes (R60, R97, R98). Bytes 76 on are not looked at (R94). -/
def recordOf (cfg : Config) (b : List Byte) : TagRecord :=
  { version := u16Read cfg.recEndian b 0
    manufacturer := strip (slice b 2 W_MANUF)
    material := strip (slice b 18 W_MATERIAL)
    color := strip (slice b 34 W_COLOR)
    diameter := u16Read cfg.recEndian b 66
    weight := u16Read cfg.recEndian b 68
    printTemp := u16Read cfg.recEndian b 70
    bedTemp := u16Read cfg.recEndian b 72
    density := u16Read cfg.recEndian b 74 }

/-- `DecodeRecord(B)` (R99): the record and the surplus warning, or `InvalidLength`. -/
def decodeRecord (cfg : Config) (b : List Byte) : Except ErrorKind (TagRecord × Bool) :=
  if b.length < REC_SIZE then .error .invalidLength
  else .ok (recordOf cfg b, warnRecord b)

/-- A decoded record as the operand of a later encode: the caller's copy of `D.*` to `R.*` (R102). -/
def TagRecord.asOperand (d : TagRecord) : RecordOperand :=
  { version := d.version.toNat, manufacturer := d.manufacturer, material := d.material,
    color := d.color, diameter := d.diameter.toNat, weight := d.weight.toNat,
    printTemp := d.printTemp.toNat, bedTemp := d.bedTemp.toNat, density := d.density.toNat }

/-! ## FrameCodec -/

/-- `BuildFrame(c, P)` (R110): `header | length | command | payload | checksum | terminator`. -/
def buildFrame (cfg : Config) (c : Byte) (p : List Byte) : Except ErrorKind (List Byte) :=
  let n := p.length + 5
  let len := n - cfg.lenExcl.val
  if len > 255 then .error .payloadTooLarge
  else
    let f := [HEADER, BitVec.ofNat 8 len, c] ++ p
    .ok (f ++ [bcc f, TERM])

/-- `RspFrame(c, s, D)` (R53): the response frame a module would send. No operation of the engine builds
it; statements name received frames with it. -/
def rspFrame (cfg : Config) (c status : Byte) (data : List Byte) : List Byte :=
  let f := [HEADER, BitVec.ofNat 8 (data.length + 6 - cfg.lenExcl.val), c, status] ++ data
  f ++ [bcc f, TERM]

/-- What a successful parse returns (R112). -/
structure ParsedFrame where
  command : Byte
  status : Option Byte
  data : List Byte
  deriving DecidableEq, Repr

/-- `MIN`: the least size of a frame in a mode (R113). -/
def minFrame (es : Bool) : Nat := 5 + (if es then 1 else 0)

/-- The command, the status in mode expectStatus = true, and the data of a frame of `n` bytes, once its
checks have passed (R113). -/
def splitFrame (b : List Byte) (n : Nat) (es : Bool) : ParsedFrame :=
  if es then { command := byteAt b 2, status := some (byteAt b 3), data := slice b 4 (n - 6) }
  else { command := byteAt b 2, status := none, data := slice b 3 (n - 5) }

/-- `ParseFrame(B, es)` (R113), the checks in the rule's order. -/
def parseFrame (cfg : Config) (b : List Byte) (es : Bool) : Except ErrorKind ParsedFrame :=
  if b.length = 0 then .error .incomplete
  else if byteAt b 0 ≠ HEADER then .error .malformedResponse
  else if b.length < 2 then .error .incomplete
  else
    let n := (byteAt b 1).toNat + cfg.lenExcl.val
    if n < minFrame es then .error .malformedResponse
    else if b.length < n then .error .incomplete
    else if b.length > n then .error .malformedResponse
    else if byteAt b (n - 1) ≠ TERM then .error .malformedResponse
    else if byteAt b (n - 2) ≠ bcc (slice b 0 (n - 2)) then .error .checksumMismatch
    else .ok (splitFrame b n es)

/-- The ports `P.*` as a parse writes them (R112, R114). -/
def ResultPorts.withParsed (r : ResultPorts) (pf : ParsedFrame) : ResultPorts :=
  { r with
    pCmd := pf.command
    pStaValid := staValidFlag pf.status
    pSta := pf.status.getD r.pSta
    pData := pf.data }

/-- Which of the ports `P.*` a parse writes: `P.STA` only with a status (R114). -/
def parsedPorts (pf : ParsedFrame) : List ResultPort :=
  if staValidFlag pf.status then [.pCmd, .pStaValid, .pSta, .pData, .pDlen]
  else [.pCmd, .pStaValid, .pData, .pDlen]

/-! ## ResponseParser -/

/-- An outcome (R150). -/
inductive RspOutcome where
  | tagPresent (channel : Byte) (record : TagRecord)
  | tagAbsent (channel : Byte)
  | authFailure (channel : Byte)
  | unknownStatus (status : Byte)
  | writeOk (channel : Byte)
  | keyError (channel : Byte)
  deriving DecidableEq, Repr

/-- Which of the two response parsers interprets (R152). -/
inductive RspKind where
  | read
  | write
  deriving DecidableEq, Repr

/-- The outcome of a known status, for a non-empty `data` whose first byte is `ch` (R152 steps 4, 5). -/
def knownOutcome (cfg : Config) (kind : RspKind) (status ch : Byte) (data : List Byte) :
    Except ErrorKind (RspOutcome × Bool) :=
  match kind with
  | .read =>
    if status = STA_OK then
      match decodeRecord cfg (data.drop 1) with
      | .ok (r, w) => .ok (.tagPresent ch r, w)
      | .error e => .error e
    else if status = STA_AUTH then .ok (.authFailure ch, warnSurplus data)
    else .ok (.tagAbsent ch, warnSurplus data)
  | .write =>
    if status = STA_OK then .ok (.writeOk ch, warnSurplus data)
    else if status = STA_AUTH then .ok (.keyError ch, warnSurplus data)
    else .ok (.tagAbsent ch, warnSurplus data)

/-- `Interpret(pf, expcmd, kind)` (R152), the steps in the rule's order. The rule speaks of a parsed
frame that has a status; one without (never the case where the engine calls it) is malformed
(DESIGN CHOICE, log 13). -/
def interpret (cfg : Config) (pf : ParsedFrame) (expcmd : Byte) (kind : RspKind) :
    Except ErrorKind (RspOutcome × Bool) :=
  if pf.command ≠ expcmd then .error .malformedResponse
  else
    match pf.status with
    | none => .error .malformedResponse
    | some s =>
      if s.toNat > 0x02 then .ok (.unknownStatus s, false)
      else
        match pf.data with
        | [] => .error .malformedResponse
        | ch :: _ => knownOutcome cfg kind s ch pf.data

/-- The tag of an outcome (R150). -/
def RspOutcome.tag : RspOutcome → OutcomeTag
  | .tagPresent _ _ => .tagPresent
  | .tagAbsent _ => .tagAbsent
  | .authFailure _ => .authFailure
  | .unknownStatus _ => .unknownStatus
  | .writeOk _ => .writeOk
  | .keyError _ => .keyError

/-- The ports an outcome writes (R150, R153): `OUTCOME` and `WARN`, `O.STA` for an unknown status, else
`O.CHAN`, and `D.*` for a present tag. -/
def ResultPorts.withOutcome (r : ResultPorts) (o : RspOutcome) (w : Bool) : ResultPorts :=
  match o with
  | .tagPresent ch d => { r with outcome := o.tag, warn := w, oChan := ch, dRec := d }
  | .unknownStatus s => { r with outcome := o.tag, warn := w, oSta := s }
  | .tagAbsent ch | .authFailure ch | .writeOk ch | .keyError ch =>
    { r with outcome := o.tag, warn := w, oChan := ch }

/-- Which ports an outcome writes (R150). -/
def outcomePorts : RspOutcome → List ResultPort
  | .tagPresent _ _ => [.outcome, .warn, .oChan, .dRec]
  | .unknownStatus _ => [.outcome, .warn, .oSta]
  | .tagAbsent _ | .authFailure _ | .writeOk _ | .keyError _ => [.outcome, .warn, .oChan]

/-- A received frame parsed with a status and interpreted; errors of the frame layer go through
unchanged (R153, R154, R155, R182). -/
def parseResponse (cfg : Config) (b : List Byte) (expcmd : Byte) (kind : RspKind) :
    Except ErrorKind (RspOutcome × Bool) :=
  match parseFrame cfg b true with
  | .error e => .error e
  | .ok pf => interpret cfg pf expcmd kind

/-! ## One-shot operations on the ports, shared by operations and frame rows -/

/-- `FRM.PARSE` of the operand ports (R114). -/
def State.parseOp (s : State) : State :=
  s.settle (match parseFrame s.cfg s.ops.ibuf s.ops.esIn with
    | .ok pf => .ok (s.res.withParsed pf, parsedPorts pf)
    | .error e => .error e)

/-- `RSP.READ` and `RSP.WRITE` of the operand ports (R153, R154). -/
def State.respondOp (s : State) (expcmd : Byte) (kind : RspKind) : State :=
  s.settle (match parseResponse s.cfg s.ops.ibuf expcmd kind with
    | .ok (o, w) => .ok (s.res.withOutcome o w, outcomePorts o)
    | .error e => .error e)

/-- A built byte sequence on `OBUF` and `OLEN` (R96, R111, R141, R142). -/
def State.emitOp (s : State) (built : Except ErrorKind (List Byte)) : State :=
  s.settle (match built with
    | .ok f => .ok ({ s.res with obuf := f }, [.obuf, .olen])
    | .error e => .error e)

/-- The caller hands over a frame: its bytes on `IBUF`, the mode on `ES_IN`, and the `OP` code of the
operation the frame is for (R13, R65; log 6). -/
def State.present (s : State) (f : List Byte) (es : Bool) (op : BitVec 4) : State :=
  { s with ops := { s.ops with ibuf := f, esIn := es, op := op } }

end Sys2Proof.Machine
end

