-- ==== Sys2Proof/Machine/Checksum.lean ====
section
/-! DEFINITION. ChecksumEngine: `BCC.COMPUTE` and `BCC.VERIFY` (40_checksum.md). -/

namespace Sys2Proof.Machine

/-- `BCC.COMPUTE` (R81). Empty input is a caller error with no result and no error kind (R85). -/
def execBccCompute (s : State) : Host.Outcome State Fault Refusal :=
  if s.ilen = 0 then .refused .emptyChecksumInput
  else .next (s.finish { s.res with bccOut := bcc s.ops.ibuf } [.bccOut])

/-- `BCC.VERIFY` (R82). A false result is a result, not an error. Empty input as R85. -/
def execBccVerify (s : State) : Host.Outcome State Fault Refusal :=
  if s.ilen = 0 then .refused .emptyChecksumInput
  else .next (s.finish { s.res with okBit := okFlag s.ops.ibuf s.ops.claim } [.okBit])

end Sys2Proof.Machine
end

