-- ==== Sys2Proof/Machine/CommandBuilder.lean ====
section
/-! DEFINITION. CommandBuilder: `CMD.READ` and `CMD.WRITE` (43_commandbuilder.md). -/

namespace Sys2Proof.Machine

/-- The frame of a read command, or `InvalidChannel` (R140, R141). -/
def readCommand (cfg : Config) (ch : Int) : Except ErrorKind (List Byte) :=
  if validChannel ch then buildFrame cfg CMD_READ [channelByte ch] else .error .invalidChannel

/-- The frame of a write command; the channel is checked first, then the record (R142, R143). -/
def writeCommand (cfg : Config) (ch : Int) (r : RecordOperand) : Except ErrorKind (List Byte) :=
  if validChannel ch then
    match encodeRecord cfg r with
    | .ok e => buildFrame cfg CMD_WRITE (channelByte ch :: e)
    | .error e => .error e
  else .error .invalidChannel

/-- `CMD.READ` (R141). -/
def execCmdRead (s : State) : Host.Outcome State Fault Refusal :=
  .next (s.emitOp (readCommand s.cfg s.ops.chanIn))

/-- `CMD.WRITE` (R142). -/
def execCmdWrite (s : State) : Host.Outcome State Fault Refusal :=
  .next (s.emitOp (writeCommand s.cfg s.ops.chanIn s.ops.record))

end Sys2Proof.Machine
end

