-- ==== Sys2Proof/Machine/Deframer.lean ====
section
/-! DEFINITION. FrameCodec, the incremental deframer: `DFR.INIT` and `DFR.FEED` (42_framecodec.md
section 3). -/

namespace Sys2Proof.Machine

/-- `DFR.INIT` (R121): starts a session, forgets a partly received frame, clears no buffer (R23). -/
def execDfrInit (s : State) : Host.Outcome State Fault Refusal :=
  let t := { s with df := { s.df with es := s.ops.esIn, state := .awaitingHeader, cnt := 0, inited := true } }
  .next (t.finish s.res [])

/-- How a `DFR.FEED` ends that yields no frame: `EVT` and `ERR` are written (R126, R180). -/
def State.feedEvent (s : State) (v : Event) (e : ErrorKind) : State :=
  { s with res := { s.res with evt := v, err := some e, held := [.err, .evt] } }

/-- How a `DFR.FEED` ends that yields a frame: `P.*` as `FRM.PARSE` writes them, `EVT` and `ERR`
(R124, R125). -/
def State.feedFrame (s : State) (pf : ParsedFrame) : State :=
  s.finish { s.res.withParsed pf with evt := .frame } (.evt :: parsedPorts pf)

/-- `DFR.FEED` in `AwaitingHeader` (R122): a byte other than `0xEF` is dropped. -/
def State.feedHeader (s : State) : State :=
  if s.ops.rx = HEADER then
    { s with df := { s.df with
        buf := Memory.write s.df.buf 0 s.ops.rx, cnt := 1, state := .awaitingLength } }.feedEvent
      .incomplete .incomplete
  else s.feedEvent .incomplete .incomplete

/-- `DFR.FEED` in `AwaitingLength` (R123): a length no frame of the mode can have abandons the frame. -/
def State.feedLength (s : State) : State :=
  if s.ops.rx.toNat + s.cfg.lenExcl.val < minFrame s.df.es then
    { s with df := { s.df with cnt := 0, state := .awaitingHeader } }.feedEvent
      .error .malformedResponse
  else
    { s with df := { s.df with
        buf := Memory.write s.df.buf 1 s.ops.rx, len := s.ops.rx, cnt := 2, state := .awaitingBody } }.feedEvent
      .incomplete .incomplete

/-- `DFR.FEED` in `AwaitingBody` stores the byte at offset `DF.CNT` and counts it (R124). -/
def State.storeBody (s : State) : State :=
  { s with df := { s.df with buf := Memory.write s.df.buf s.df.cnt s.ops.rx, cnt := s.df.cnt + 1 } }

/-- The declared number of bytes has arrived: the deframer goes back to `AwaitingHeader` (through
`Complete` inside this step for a valid frame, R125) and the frame is judged as `FRM.PARSE` judges it
(R124). -/
def State.endFrame (s : State) (f : List Byte) : State :=
  let t := { s with df := { s.df with cnt := 0, state := .awaitingHeader } }
  match parseFrame s.cfg f s.df.es with
  | .ok pf => t.feedFrame pf
  | .error e => t.feedEvent .error e

/-- `DFR.FEED` in `AwaitingBody` (R124). -/
def State.feedBody (s : State) : Host.Outcome State Fault Refusal :=
  if s.df.cnt < s.cfg.maxFrame then
    let t := s.storeBody
    if t.df.cnt < t.df.len.toNat + t.cfg.lenExcl.val then
      .next (t.feedEvent .incomplete .incomplete)
    else
      match Memory.readRange t.df.buf 0 t.df.cnt with
      | some f => .next (t.endFrame f)
      | none => .refused .bufferByteUnwritten
  else .fault (.offsetOutsideBuffer s.df.cnt)

/-- `DFR.FEED` (R122 to R126); before any `DFR.INIT` it is refused (R130). -/
def execDfrFeed (s : State) : Host.Outcome State Fault Refusal :=
  if s.df.inited then
    match s.df.state with
    | .awaitingHeader => .next s.feedHeader
    | .awaitingLength => .next s.feedLength
    | .awaitingBody => s.feedBody
    | .complete => .refused .feedInComplete
  else .refused .feedBeforeInit

end Sys2Proof.Machine
end

