-- ==== Sys2Proof/Machine/FrameCodec.lean ====
section
/-! DEFINITION. FrameCodec, the one-shot operations: `FRM.BUILD` and `FRM.PARSE` (42_framecodec.md
sections 1 and 2). -/

namespace Sys2Proof.Machine

/-- `FRM.BUILD` (R111): the command byte is not checked (R117). -/
def execFrmBuild (s : State) : Host.Outcome State Fault Refusal :=
  .next (s.emitOp (buildFrame s.cfg s.ops.cmdIn s.ops.ibuf))

/-- `FRM.PARSE` (R114). -/
def execFrmParse (s : State) : Host.Outcome State Fault Refusal :=
  .next s.parseOp

end Sys2Proof.Machine
end

