-- ==== Sys2Proof/Machine/Frames.lean ====
section
/-! DEFINITION. The twelve frame rows of the opcode table as instructions: the caller hands the engine
the whole frame in the row's mode, and the engine does on it what the row's rule says (R64, R67; DESIGN
CHOICE, log 6). A command-frame row and a generic row are parsed as `FRM.PARSE` parses them in the mode
of the row (R113; the source's scenario 1 reads `READ_REQ` so). A response row is interpreted as
`RSP.READ` (R153) or `RSP.WRITE` (R154) interprets it. A frame that its row matches but whose checksum,
terminator or size is wrong ends with the error kind those rules give. -/

namespace Sys2Proof.Machine

/-- `READ_REQ` (R64, R113, R141). -/
def execReadReq (channel : Byte) (tail : List Byte) (s : State) : Host.Outcome State Fault Refusal :=
  .next (s.present (HEADER :: 0x06 :: CMD_READ :: channel :: tail) false 0x6#4).parseOp

/-- `WRITE_REQ` (R64, R113, R142). -/
def execWriteReq (channel : Byte) (tail : List Byte) (s : State) : Host.Outcome State Fault Refusal :=
  .next (s.present (HEADER :: 0x76 :: CMD_WRITE :: channel :: tail) false 0x6#4).parseOp

/-- `READ_RSP_OK` (R64, R153). -/
def execReadRspOk (len : Byte) (tail : List Byte) (s : State) : Host.Outcome State Fault Refusal :=
  .next ((s.present (HEADER :: len :: CMD_READ :: STA_OK :: tail) true 0x9#4).respondOp CMD_READ .read)

/-- `READ_RSP_AUTH` (R64, R153). -/
def execReadRspAuth (len : Byte) (tail : List Byte) (s : State) : Host.Outcome State Fault Refusal :=
  .next ((s.present (HEADER :: len :: CMD_READ :: STA_AUTH :: tail) true 0x9#4).respondOp CMD_READ .read)

/-- `READ_RSP_NOTAG` (R64, R153). -/
def execReadRspNotag (len : Byte) (tail : List Byte) (s : State) : Host.Outcome State Fault Refusal :=
  .next ((s.present (HEADER :: len :: CMD_READ :: STA_NOTAG :: tail) true 0x9#4).respondOp CMD_READ .read)

/-- `READ_RSP_UNKNOWN` (R67, R153, R159). -/
def execReadRspUnknown (len status : Byte) (tail : List Byte) (s : State) :
    Host.Outcome State Fault Refusal :=
  .next ((s.present (HEADER :: len :: CMD_READ :: status :: tail) true 0x9#4).respondOp CMD_READ .read)

/-- `WRITE_RSP_OK` (R64, R154). -/
def execWriteRspOk (len : Byte) (tail : List Byte) (s : State) : Host.Outcome State Fault Refusal :=
  .next ((s.present (HEADER :: len :: CMD_WRITE :: STA_OK :: tail) true 0xA#4).respondOp
    s.cfg.writeAckCmd .write)

/-- `WRITE_RSP_KEYERR` (R64, R154). -/
def execWriteRspKeyerr (len : Byte) (tail : List Byte) (s : State) : Host.Outcome State Fault Refusal :=
  .next ((s.present (HEADER :: len :: CMD_WRITE :: STA_AUTH :: tail) true 0xA#4).respondOp
    s.cfg.writeAckCmd .write)

/-- `WRITE_RSP_NOTAG` (R64, R154). -/
def execWriteRspNotag (len : Byte) (tail : List Byte) (s : State) : Host.Outcome State Fault Refusal :=
  .next ((s.present (HEADER :: len :: CMD_WRITE :: STA_NOTAG :: tail) true 0xA#4).respondOp
    s.cfg.writeAckCmd .write)

/-- `WRITE_RSP_UNKNOWN` (R67, R154, R159). -/
def execWriteRspUnknown (len status : Byte) (tail : List Byte) (s : State) :
    Host.Outcome State Fault Refusal :=
  .next ((s.present (HEADER :: len :: CMD_WRITE :: status :: tail) true 0xA#4).respondOp
    s.cfg.writeAckCmd .write)

/-- `GENERIC_CMD_FRAME` (R67, R113). -/
def execGenericCmdFrame (len command third : Byte) (tail : List Byte) (s : State) :
    Host.Outcome State Fault Refusal :=
  .next (s.present (HEADER :: len :: command :: third :: tail) false 0x6#4).parseOp

/-- `GENERIC_RSP_FRAME` (R67, R113). -/
def execGenericRspFrame (len command status : Byte) (tail : List Byte) (s : State) :
    Host.Outcome State Fault Refusal :=
  .next (s.present (HEADER :: len :: command :: status :: tail) true 0x6#4).parseOp

end Sys2Proof.Machine
end

