-- ==== Sys2Proof/Machine/ResponseParser.lean ====
section
/-! DEFINITION. ResponseParser: `RSP.READ` and `RSP.WRITE` (44_responseparser.md). -/

namespace Sys2Proof.Machine

/-- `RSP.READ` (R153): expects command 0x11. -/
def execRspRead (s : State) : Host.Outcome State Fault Refusal :=
  .next (s.respondOp CMD_READ .read)

/-- `RSP.WRITE` (R154): expects command `WRITE_ACK_CMD` (R151). -/
def execRspWrite (s : State) : Host.Outcome State Fault Refusal :=
  .next (s.respondOp s.cfg.writeAckCmd .write)

end Sys2Proof.Machine
end

