-- ==== Sys2Proof/Machine/TagRecordCodec.lean ====
section
/-! DEFINITION. TagRecordCodec: `REC.ENCODE` and `REC.DECODE` (41_tagrecord.md). -/

namespace Sys2Proof.Machine

/-- `REC.ENCODE` (R96): the image of `R.*` on `OBUF`, or `FieldOverflow`. -/
def execRecEncode (s : State) : Host.Outcome State Fault Refusal :=
  .next (s.emitOp (encodeRecord s.cfg s.ops.record))

/-- `REC.DECODE` (R100): `D.*` and `WARN`, or `InvalidLength`. -/
def execRecDecode (s : State) : Host.Outcome State Fault Refusal :=
  .next (s.settle (match decodeRecord s.cfg s.ops.ibuf with
    | .ok (d, w) => .ok ({ s.res with dRec := d, warn := w }, [.dRec, .warn])
    | .error e => .error e))

end Sys2Proof.Machine
end

