-- ==== Sys2Proof/Machine/Dispatch.lean ====
section
/-! DEFINITION. One arm per instruction, each one call of its meaning. -/

namespace Sys2Proof.Machine

def exec (i : Instr) (s : State) : Host.Outcome State Fault Refusal :=
  match i with
  | .bccCompute => Sys2Proof.Machine.execBccCompute s
  | .bccVerify => Sys2Proof.Machine.execBccVerify s
  | .recEncode => Sys2Proof.Machine.execRecEncode s
  | .recDecode => Sys2Proof.Machine.execRecDecode s
  | .frmBuild => Sys2Proof.Machine.execFrmBuild s
  | .frmParse => Sys2Proof.Machine.execFrmParse s
  | .cmdRead => Sys2Proof.Machine.execCmdRead s
  | .cmdWrite => Sys2Proof.Machine.execCmdWrite s
  | .rspRead => Sys2Proof.Machine.execRspRead s
  | .rspWrite => Sys2Proof.Machine.execRspWrite s
  | .dfrInit => Sys2Proof.Machine.execDfrInit s
  | .dfrFeed => Sys2Proof.Machine.execDfrFeed s
  | .readReq channel tail => Sys2Proof.Machine.execReadReq channel tail s
  | .writeReq channel tail => Sys2Proof.Machine.execWriteReq channel tail s
  | .readRspOk len tail => Sys2Proof.Machine.execReadRspOk len tail s
  | .readRspAuth len tail => Sys2Proof.Machine.execReadRspAuth len tail s
  | .readRspNotag len tail => Sys2Proof.Machine.execReadRspNotag len tail s
  | .readRspUnknown len status tail => Sys2Proof.Machine.execReadRspUnknown len status tail s
  | .writeRspOk len tail => Sys2Proof.Machine.execWriteRspOk len tail s
  | .writeRspKeyerr len tail => Sys2Proof.Machine.execWriteRspKeyerr len tail s
  | .writeRspNotag len tail => Sys2Proof.Machine.execWriteRspNotag len tail s
  | .writeRspUnknown len status tail => Sys2Proof.Machine.execWriteRspUnknown len status tail s
  | .genericCmdFrame len command third tail => Sys2Proof.Machine.execGenericCmdFrame len command third tail s
  | .genericRspFrame len command status tail => Sys2Proof.Machine.execGenericRspFrame len command status tail s

end Sys2Proof.Machine
end

