-- ==== Sys2Proof/Machine/Caller.lean ====
section
/-! DEFINITION. The caller's actions (R10): loading an operand port, issuing an operation, reading a
result port. `Step.lean` performs one of them per step. -/

namespace Sys2Proof.Machine

/-- The state after the caller's oldest action has been taken off its list. -/
def State.popCaller (s : State) (rest : List CallerAct) : State := { s with caller := rest }

/-- The caller loads an operand port (R13); nothing else changes (R19). -/
def State.load (s : State) (w : PortWrite) : State := { s with ops := s.ops.write w }

/-- Issuing an operation writes the port `OP` (R70); handing over a frame is written by the frame row's
meaning. -/
def State.accept (s : State) : Fetch → State
  | .op code => { s with ops := { s.ops with op := code } }
  | .frame _ _ => s

/-- What the machine answers when the caller issued no instruction: an `OP` code that selects nothing is
refused (R73), a byte sequence that is no frame of the table is refused by its own name. -/
def refusalOf : DecodeError → Refusal
  | .noOperation code => .noOperation code
  | .noFrameRow bytes => .noFrameRow bytes

/-- The caller issues something: it is decoded and executed, in one atomic step (R8, R39, R70). -/
def State.issue (s : State) (f : Fetch) : Host.Outcome State Fault Refusal :=
  match decode f with
  | .ok i => exec i (s.accept f)
  | .error e => .refused (refusalOf e)

/-- The caller reads: the value is added to what it has read, and nothing of the engine changes (a read
has no side effect, R36). -/
def State.readBack (s : State) (t : ReadTarget) : Host.Outcome State Fault Refusal :=
  match s.readTarget t with
  | .ok v => .next { s with reads := v :: s.reads }
  | .error r => .refused r

/-- One action of the caller. -/
def State.act (s : State) : CallerAct → Host.Outcome State Fault Refusal
  | .load w => .next (s.load w)
  | .issue f => s.issue f
  | .read t => s.readBack t

end Sys2Proof.Machine
end

