-- ==== Sys2Proof/Machine/Step.lean ====
section
/-! DEFINITION. One step: the caller's oldest pending action is performed; with none pending the engine
is idle (R11) and the state stays as it is (R206: it never stops of its own accord). -/

namespace Sys2Proof.Machine

def step (s : State) : Host.Outcome State Fault Refusal :=
  match s.caller with
  | [] => .next s
  | a :: rest => (s.popCaller rest).act a

/-- `s` with the table word's instruction put where `step` takes its next one: in front of the caller's
pending actions (log 5). -/
def State.withFetchWord (s : State) (nbits w : Nat) : State :=
  { s with caller := .issue (tableFetch nbits w) :: s.caller }

end Sys2Proof.Machine
end

