-- ==== Sys2Proof/Safety.lean ====
section
/-! DEFINITION. The terms statements are made in: the invariants that hold between operations (R17, R30),
which ports an instruction may write (R14, R70), feeding a byte sequence to the deframer (R120), and when
an outcome is a next state. -/

namespace Sys2Proof

/-- The instructions that touch no `DF.*` register (R19): all but `DFR.INIT` and `DFR.FEED`. -/
def Instr.isOneShot : Instr → Bool
  | .dfrInit | .dfrFeed => false
  | .bccCompute | .bccVerify | .recEncode | .recDecode | .frmBuild | .frmParse
  | .cmdRead | .cmdWrite | .rspRead | .rspWrite
  | .readReq _ _ | .writeReq _ _ | .readRspOk _ _ | .readRspAuth _ _ | .readRspNotag _ _
  | .readRspUnknown _ _ _ | .writeRspOk _ _ | .writeRspKeyerr _ _ | .writeRspNotag _ _
  | .writeRspUnknown _ _ _ | .genericCmdFrame _ _ _ _ | .genericRspFrame _ _ _ _ => true

/-- The rows of the table that are operations, whose operands the caller has put on the ports (R70). -/
def Instr.isOperation : Instr → Bool
  | .bccCompute | .bccVerify | .recEncode | .recDecode | .frmBuild | .frmParse
  | .cmdRead | .cmdWrite | .rspRead | .rspWrite | .dfrInit | .dfrFeed => true
  | .readReq _ _ | .writeReq _ _ | .readRspOk _ _ | .readRspAuth _ _ | .readRspNotag _ _
  | .readRspUnknown _ _ _ | .writeRspOk _ _ | .writeRspKeyerr _ _ | .writeRspNotag _ _
  | .writeRspUnknown _ _ _ | .genericCmdFrame _ _ _ _ | .genericRspFrame _ _ _ _ => false

end Sys2Proof

namespace Sys2Proof.Machine

/-- The outcome is a next state. -/
def isNext : Host.Outcome State Fault Refusal → Bool
  | .next _ => true
  | .fault _ => false
  | .refused _ => false

/-- The invariants of R17 between operations, with what they need of `DF.BUF`: it keeps its canonical
form, has no byte beyond `254 + LEN_EXCL` (R30), and every byte counted by `DF.CNT` has been written. -/
abbrev Deframer.Inv (cfg : Config) (d : Deframer) : Prop :=
  Memory.wf d.buf = true ∧
  (∀ c ∈ d.buf, c.1 < cfg.maxFrame) ∧
  (∀ a, a < d.cnt → (Memory.read d.buf a).isSome = true) ∧
  d.state ≠ .complete ∧
  (d.inited = false → d.state = .awaitingHeader) ∧
  (d.state = .awaitingHeader → d.cnt = 0) ∧
  (d.state = .awaitingLength → d.cnt = 1 ∧ Memory.read d.buf 0 = some HEADER) ∧
  (d.state = .awaitingBody →
    2 ≤ d.cnt ∧ d.cnt < d.len.toNat + cfg.lenExcl.val ∧
    Memory.read d.buf 0 = some HEADER ∧ Memory.read d.buf 1 = some d.len ∧
    minFrame d.es ≤ d.len.toNat + cfg.lenExcl.val)

/-- What the result ports never exceed (R14, R16, R30), and the error kind that is never raised (R179). -/
abbrev ResultPorts.Inv (cfg : Config) (r : ResultPorts) : Prop :=
  r.err ≠ some .unknownStatus ∧
  r.obuf.length ≤ cfg.maxFrame ∧
  r.pData.length ≤ cfg.maxPayload ∧
  r.dRec.manufacturer.length ≤ W_MANUF ∧
  r.dRec.material.length ≤ W_MATERIAL ∧
  r.dRec.color.length ≤ W_COLOR

/-- The invariant of the machine. -/
abbrev State.Inv (s : State) : Prop := Deframer.Inv s.cfg s.df ∧ ResultPorts.Inv s.cfg s.res

/-- The caller feeds a byte sequence to the deframer, one `DFR.FEED` per byte, in order (R120). -/
def feedAll (s : State) (bytes : List Byte) : Host.Outcome State Fault Refusal :=
  match bytes with
  | [] => .next s
  | b :: rest =>
    match exec .dfrFeed (s.load (.rx b)) with
    | .next t => feedAll t rest
    | .fault r => .fault r
    | .refused r => .refused r

/-- The result ports an instruction may write, `ERR` among them (R14, R70; frame rows as the operation
they are handed to, log 6). -/
def writablePorts : Instr → List ResultPort
  | .bccCompute => [.err, .bccOut]
  | .bccVerify => [.err, .okBit]
  | .recEncode | .frmBuild | .cmdRead | .cmdWrite => [.err, .obuf, .olen]
  | .recDecode => [.err, .dRec, .warn]
  | .frmParse | .readReq _ _ | .writeReq _ _ | .genericCmdFrame _ _ _ _ | .genericRspFrame _ _ _ _ =>
    [.err, .pCmd, .pSta, .pStaValid, .pData, .pDlen]
  | .rspRead | .readRspOk _ _ | .readRspAuth _ _ | .readRspNotag _ _ | .readRspUnknown _ _ _ =>
    [.err, .outcome, .oChan, .oSta, .dRec, .warn]
  | .rspWrite | .writeRspOk _ _ | .writeRspKeyerr _ _ | .writeRspNotag _ _ | .writeRspUnknown _ _ _ =>
    [.err, .outcome, .oChan, .oSta, .warn]
  | .dfrInit => [.err]
  | .dfrFeed => [.err, .evt, .pCmd, .pSta, .pStaValid, .pData, .pDlen]

/-- The error kinds an instruction may raise (R171; frame rows as the operation they are handed to). -/
def raisableKinds : Instr → List ErrorKind
  | .bccCompute | .bccVerify | .dfrInit => []
  | .recEncode => [.fieldOverflow]
  | .recDecode => [.invalidLength]
  | .frmBuild => [.payloadTooLarge]
  | .cmdRead => [.invalidChannel]
  | .cmdWrite => [.invalidChannel, .fieldOverflow]
  | .rspRead | .readRspOk _ _ | .readRspAuth _ _ | .readRspNotag _ _ | .readRspUnknown _ _ _ =>
    [.invalidLength, .incomplete, .checksumMismatch, .malformedResponse]
  | .frmParse | .readReq _ _ | .writeReq _ _ | .genericCmdFrame _ _ _ _ | .genericRspFrame _ _ _ _
  | .rspWrite | .writeRspOk _ _ | .writeRspKeyerr _ _ | .writeRspNotag _ _ | .writeRspUnknown _ _ _
  | .dfrFeed => [.incomplete, .checksumMismatch, .malformedResponse]

/-- The six numeric operands fit their fields (R91). -/
abbrev RecordOperand.Fits (r : RecordOperand) : Prop :=
  r.version ≤ 65535 ∧ r.diameter ≤ 65535 ∧ r.weight ≤ 65535 ∧ r.printTemp ≤ 65535 ∧
  r.bedTemp ≤ 65535 ∧ r.density ≤ 65535

/-- A canonical text for a field of `w` bytes: no longer than the field and not ending in a padding byte
(R101, glossary). -/
abbrev Canonical (w : Nat) (t : List Byte) : Prop :=
  t.length ≤ w ∧ ∀ b ∈ t.getLast?, b ≠ 0x00 ∧ b ≠ 0x20

end Sys2Proof.Machine
end

