-- ==== Sys2Proof/Certificates/Slice0/Obligations.lean ====
section
/-! DEFINITION. The statements for the provers, in the order of OBLIGATIONS.json. -/

open Sys2Proof Sys2Proof.Machine

/-! ## Encoding, step, caller -/

/-- R67, R70: every well-formed instruction of the table, with every operand, decodes from its own
encoding. -/
def Obligations.DecodeOfEncode : Prop :=
  ∀ i : Instr, i.wellFormed = true → decode (encode i) = .ok i

/-- R67, R70: what the decoder reads is well formed (the first row its bytes match) and encodes back to
exactly what was issued; so each issued word has one meaning. -/
def Obligations.EncodeOfDecode : Prop :=
  ∀ (f : Fetch) (i : Instr), decode f = .ok i → encode i = f ∧ i.wellFormed = true

/-- R67, R70: words written out from the tables decode to the instruction they stand for. -/
def Obligations.WrittenOutWordsDecode : Prop :=
  decode (.op 0x1#4) = .ok .bccCompute ∧ decode (.op 0x4#4) = .ok .recDecode ∧
  decode (.op 0x6#4) = .ok .frmParse ∧ decode (.op 0x8#4) = .ok .cmdWrite ∧
  decode (.op 0xA#4) = .ok .rspWrite ∧ decode (.op 0xC#4) = .ok .dfrFeed ∧
  decode (.frame false [0xEF, 0x06, 0x11, 0x01, 0x06, 0xFE]) = .ok (.readReq 0x01 [0x06, 0xFE]) ∧
  decode (.frame true [0xEF, 0x07, 0x11, 0x02, 0x01, 0x05, 0xFE]) =
    .ok (.readRspNotag 0x07 [0x01, 0x05, 0xFE]) ∧
  decode (.frame true [0xEF, 0x07, 0x12, 0x09, 0x03, 0x0F, 0xFE]) =
    .ok (.writeRspUnknown 0x07 0x09 [0x03, 0x0F, 0xFE])

/-- R73: the codes 0x0, 0xD, 0xE and 0xF, and no others, select no operation and are refused as such.
(The caller's list is the model's own, log 5.) -/
def Obligations.UnassignedOpCodesAreRefused : Prop :=
  ∀ (s : State) (rest : List CallerAct) (code : BitVec 4), s.caller = .issue (.op code) :: rest →
    ((code = 0x0#4 ∨ code = 0xD#4 ∨ code = 0xE#4 ∨ code = 0xF#4) ↔
      step s = .refused (.noOperation code))

/-- R8, R39, R70: when what the caller issues next decodes to `i`, a step is `exec i`, at the state with
that action taken off the caller's list and, for an operation, its code on the port `OP`. (The caller's list is the
model's own, log 5.) -/
def Obligations.StepRunsTheIssuedInstruction : Prop :=
  ∀ (s : State) (f : Fetch) (rest : List CallerAct) (i : Instr),
    s.caller = .issue f :: rest → decode f = .ok i →
    step s = exec i (match f with
      | .op code => { s with caller := rest, ops := { s.ops with op := code } }
      | .frame _ _ => { s with caller := rest })

/-- R11, R13, R14, R16, R17, R19, R24, R36: with nothing pending the engine is idle; a load sets the one
operand port it names and every other keeps its value; reading a result port that holds no value, because
the last operation did not write it, is refused; reading one that holds a value, or `DF.STATE`, adds that
value to what the caller has read and changes nothing of the engine. (The caller's list and the list of
what it has read are the model's own, log 5.) -/
def Obligations.IdleLoadAndReadSteps : Prop :=
  ∀ s : State,
    (s.caller = [] → step s = .next s) ∧
    (∀ w rest, s.caller = .load w :: rest →
      step s = .next { s with
        caller := rest
        ops := (match w with
          | .ibuf b => { s.ops with ibuf := b }
          | .claim v => { s.ops with claim := v }
          | .cmdIn v => { s.ops with cmdIn := v }
          | .esIn v => { s.ops with esIn := v }
          | .chanIn v => { s.ops with chanIn := v }
          | .rx v => { s.ops with rx := v }
          | .rVersion v => { s.ops with record := { s.ops.record with version := v } }
          | .rManuf v => { s.ops with record := { s.ops.record with manufacturer := v } }
          | .rMaterial v => { s.ops with record := { s.ops.record with material := v } }
          | .rColor v => { s.ops with record := { s.ops.record with color := v } }
          | .rDiam v => { s.ops with record := { s.ops.record with diameter := v } }
          | .rWeight v => { s.ops with record := { s.ops.record with weight := v } }
          | .rPtemp v => { s.ops with record := { s.ops.record with printTemp := v } }
          | .rBtemp v => { s.ops with record := { s.ops.record with bedTemp := v } }
          | .rDens v => { s.ops with record := { s.ops.record with density := v } }) }) ∧
    (∀ p rest, s.caller = .read (.port p) :: rest → p ∉ s.res.held →
      step s = .refused (.portHoldsNoValue p)) ∧
    (∀ p rest, s.caller = .read (.port p) :: rest → p ∈ s.res.held →
      step s = .next { s with
        caller := rest
        reads := (match p with
          | .err => .err s.res.err
          | .obuf => .bytes s.res.obuf
          | .olen => .count s.res.obuf.length
          | .bccOut => .byte s.res.bccOut
          | .okBit => .bit s.res.okBit
          | .pCmd => .byte s.res.pCmd
          | .pSta => .byte s.res.pSta
          | .pStaValid => .bit s.res.pStaValid
          | .pData => .bytes s.res.pData
          | .pDlen => .count s.res.pData.length
          | .outcome => .outcome s.res.outcome
          | .oChan => .byte s.res.oChan
          | .oSta => .byte s.res.oSta
          | .warn => .bit s.res.warn
          | .dRec => .record s.res.dRec
          | .evt => .event s.res.evt) :: s.reads }) ∧
    (∀ rest, s.caller = .read .dfState :: rest →
      step s = .next { s with caller := rest, reads := .dfState s.df.state :: s.reads })

/-! ## ChecksumEngine -/

/-- R81: `BCC.COMPUTE`, for every non-empty input. -/
def Obligations.BccComputeWritesTheComplementedXor : Prop :=
  decode (.op 0x1#4) = .ok .bccCompute ∧
  ∀ s : State, s.ops.ibuf ≠ [] →
    exec .bccCompute s = .next { s with
      res := { s.res with
      bccOut := ~~~(s.ops.ibuf.foldl (· ^^^ ·) 0x00#8), err := none, held := [.err, .bccOut] } }

/-- R82: `BCC.VERIFY`, for every non-empty input; a false result is no error. -/
def Obligations.BccVerifyComparesWithTheClaim : Prop :=
  decode (.op 0x2#4) = .ok .bccVerify ∧
  ∀ s : State, s.ops.ibuf ≠ [] →
    exec .bccVerify s = .next { s with
      res := { s.res with
      okBit := decide (~~~(s.ops.ibuf.foldl (· ^^^ ·) 0x00#8) = s.ops.claim),
      err := none, held := [.err, .okBit] } }

/-- R85: empty input has no result and no error kind; both operations are refused. -/
def Obligations.EmptyChecksumInputIsRefused : Prop :=
  ∀ s : State, s.ops.ibuf = [] →
    exec .bccCompute s = .refused .emptyChecksumInput ∧
    exec .bccVerify s = .refused .emptyChecksumInput

/-- R83: the streaming form, and the receiver's form (covered bytes and checksum byte together XOR to
0xFF). -/
def Obligations.BccStreams : Prop :=
  (∀ x : Byte, bcc [x] = ~~~x) ∧
  (∀ (a : List Byte) (x : Byte), a ≠ [] → bcc (a ++ [x]) = bcc a ^^^ x) ∧
  (∀ (f : List Byte) (n : Nat), f.length = n → 3 ≤ n →
    (byteAt f (n - 2) = bcc (slice f 0 (n - 2)) ↔ xorAll (slice f 0 (n - 1)) = 0xFF))

/-- R84: what the checksum detects and what it does not. -/
def Obligations.BccDetectionLaws : Prop :=
  ∀ b : List Byte, b ≠ [] →
    okFlag b (bcc b) = true ∧
    (∀ i v, i < b.length → v ≠ byteAt b i → okFlag (b.set i v) (bcc b) = false) ∧
    (∀ c, c ≠ bcc b → okFlag b c = false) ∧
    (∀ b' c, b'.length = b.length →
      (okFlag b' c = true ↔ xorAll (List.zipWith (· ^^^ ·) b b') = bcc b ^^^ c)) ∧
    (∀ b', b'.Perm b → okFlag b' (bcc b) = true) ∧
    (∀ x k, okFlag (b.take k ++ [x, x] ++ b.drop k) (bcc b) = true)

/-! ## TagRecordCodec -/

/-- R95, R96, R174: `REC.ENCODE` of a record whose numbers fit writes 112 bytes to `OBUF`; it raises
`FieldOverflow` exactly when a numeric operand exceeds 65535, and then writes nothing else. -/
def Obligations.RecEncodeResult : Prop :=
  decode (.op 0x3#4) = .ok .recEncode ∧
  ∀ s : State,
    (s.ops.record.Fits →
      ∃ e, encodeRecord s.cfg s.ops.record = .ok e ∧ e.length = 112 ∧
        exec .recEncode s = .next { s with
          res := { s.res with
          obuf := e, err := none, held := [.err, .obuf, .olen] } }) ∧
    (¬ s.ops.record.Fits →
      exec .recEncode s = .next { s with
        res := { s.res with
        err := some .fieldOverflow, held := [.err] } })

/-- R33, R60, R61, R62, R63, R93, R95: where each byte of the image stands. The six numbers stand at
their offsets in the byte order in force; byte `i` of a text is at the field's offset plus `i`, zero
beyond the text, and a text longer than its field is cut; bytes 76 to 111 are zero. -/
def Obligations.RecordImageLayout : Prop :=
  ∀ (cfg : Config) (r : RecordOperand) (e : List Byte), encodeRecord cfg r = .ok e →
    e.length = 112 ∧
    (∀ p ∈ [(0, r.version), (66, r.diameter), (68, r.weight), (70, r.printTemp), (72, r.bedTemp),
        (74, r.density)],
      byteAt e p.1 = BitVec.ofNat 8 (if cfg.recEndian = .big then p.2 / 256 else p.2) ∧
      byteAt e (p.1 + 1) = BitVec.ofNat 8 (if cfg.recEndian = .big then p.2 else p.2 / 256)) ∧
    (∀ i, i < 16 → byteAt e (2 + i) = r.manufacturer.getD i 0x00) ∧
    (∀ i, i < 16 → byteAt e (18 + i) = r.material.getD i 0x00) ∧
    (∀ i, i < 32 → byteAt e (34 + i) = r.color.getD i 0x00) ∧
    (∀ i, 76 ≤ i → i < 112 → byteAt e i = 0x00)

/-- R99, R100, R175: `REC.DECODE` of 112 bytes or more writes `D.*` and `WARN`; of fewer it raises
`InvalidLength` and writes nothing else. -/
def Obligations.RecDecodeResult : Prop :=
  decode (.op 0x4#4) = .ok .recDecode ∧
  ∀ s : State,
    (112 ≤ s.ops.ibuf.length →
      exec .recDecode s = .next { s with
        res := { s.res with
        dRec := recordOf s.cfg s.ops.ibuf, warn := decide (s.ops.ibuf.length > 112),
        err := none, held := [.err, .dRec, .warn] } }) ∧
    (s.ops.ibuf.length < 112 →
      exec .recDecode s = .next { s with
        res := { s.res with
        err := some .invalidLength, held := [.err] } })

/-- R33, R60, R97, R98, R99: the fields of a decoded record: each number is its two bytes in the order in
force, each text its field without the longest suffix of padding bytes. -/
def Obligations.RecordFieldsRead : Prop :=
  ∀ (cfg : Config) (b : List Byte) (d : TagRecord) (w : Bool), decodeRecord cfg b = .ok (d, w) →
    w = decide (b.length > 112) ∧
    (∀ p ∈ [(0, d.version), (66, d.diameter), (68, d.weight), (70, d.printTemp), (72, d.bedTemp),
        (74, d.density)],
      p.2.toNat = if cfg.recEndian = .big then (byteAt b p.1).toNat * 256 + (byteAt b (p.1 + 1)).toNat
        else (byteAt b (p.1 + 1)).toNat * 256 + (byteAt b p.1).toNat) ∧
    (∀ p ∈ [(2, 16, d.manufacturer), (18, 16, d.material), (34, 32, d.color)],
      ∃ pad : List Byte, slice b p.1 p.2.1 = p.2.2 ++ pad ∧ (∀ x ∈ pad, x = 0x00 ∨ x = 0x20) ∧
        (∀ x ∈ p.2.2.getLast?, x ≠ 0x00 ∧ x ≠ 0x20))

/-- R97: `Strip` removes exactly the longest suffix of bytes 0x00 and 0x20. -/
def Obligations.StripRemovesTheLongestPaddingSuffix : Prop :=
  ∀ f t : List Byte, strip f = t ↔
    ∃ pad, f = t ++ pad ∧ (∀ x ∈ pad, x = 0x00 ∨ x = 0x20) ∧
      (∀ x ∈ t.getLast?, x ≠ 0x00 ∧ x ≠ 0x20)

/-- R94, R99: bytes from offset 76 on are ignored, and so is everything beyond the 112th byte. -/
def Obligations.DecodeIgnoresReservedAndSurplus : Prop :=
  ∀ (cfg : Config) (b b' : List Byte), 112 ≤ b.length → 112 ≤ b'.length → b.take 76 = b'.take 76 →
    ∃ d, decodeRecord cfg b = .ok (d, decide (b.length > 112)) ∧
      decodeRecord cfg b' = .ok (d, decide (b'.length > 112))

/-- R101: encode then decode, for either byte order. -/
def Obligations.DecodeOfEncodedRecord : Prop :=
  ∀ (cfg : Config) (r : RecordOperand), r.Fits →
    ∃ e d, encodeRecord cfg r = .ok e ∧ decodeRecord cfg e = .ok (d, false) ∧
      d.version.toNat = r.version ∧ d.diameter.toNat = r.diameter ∧ d.weight.toNat = r.weight ∧
      d.printTemp.toNat = r.printTemp ∧ d.bedTemp.toNat = r.bedTemp ∧ d.density.toNat = r.density ∧
      d.manufacturer = strip (trunc r.manufacturer 16) ∧ d.material = strip (trunc r.material 16) ∧
      d.color = strip (trunc r.color 32) ∧
      (d.asOperand = r ↔
        Canonical 16 r.manufacturer ∧ Canonical 16 r.material ∧ Canonical 32 r.color)

/-- R102: decode then encode gives the image back exactly when its padding and reserved bytes are zero,
and never overflows. -/
def Obligations.EncodeOfDecodedRecord : Prop :=
  ∀ (cfg : Config) (b : List Byte), b.length = 112 →
    ∃ d e, decodeRecord cfg b = .ok (d, false) ∧ encodeRecord cfg d.asOperand = .ok e ∧
      (e = b ↔
        (∀ p ∈ [(2, 16), (18, 16), (34, 32)], ∀ i, (strip (slice b p.1 p.2)).length ≤ i → i < p.2 →
          byteAt b (p.1 + i) = 0x00) ∧
        (∀ i, 76 ≤ i → i < 112 → byteAt b i = 0x00))

/-! ## FrameCodec, one shot -/

/-- R110, R111: `FRM.BUILD` of a payload that fits, for every command byte. -/
def Obligations.FrmBuildWritesTheFrame : Prop :=
  decode (.op 0x5#4) = .ok .frmBuild ∧
  ∀ s : State, s.ops.ibuf.length ≤ 250 + s.cfg.lenExcl.val →
    exec .frmBuild s = .next { s with
      res := { s.res with
      obuf := [0xEF, BitVec.ofNat 8 (s.ops.ibuf.length + 5 - s.cfg.lenExcl.val), s.ops.cmdIn]
        ++ s.ops.ibuf
        ++ [bcc ([0xEF, BitVec.ofNat 8 (s.ops.ibuf.length + 5 - s.cfg.lenExcl.val), s.ops.cmdIn]
              ++ s.ops.ibuf), 0xFE],
      err := none, held := [.err, .obuf, .olen] } }

/-- R172: `FRM.BUILD` raises `PayloadTooLarge` exactly when the payload is longer than `250 + LEN_EXCL`,
and then builds nothing; `CMD.READ` and `CMD.WRITE` never raise it. -/
def Obligations.PayloadTooLargeExactlyWhenTooLong : Prop :=
  (∀ s : State, ∃ t, exec .frmBuild s = .next t ∧
    (t.res.err = some .payloadTooLarge ↔ s.ops.ibuf.length > 250 + s.cfg.lenExcl.val) ∧
    (s.ops.ibuf.length > 250 + s.cfg.lenExcl.val →
      t = { s with res := { s.res with err := some .payloadTooLarge, held := [.err] } })) ∧
  (∀ s t : State, exec .cmdRead s = .next t ∨ exec .cmdWrite s = .next t →
    t.res.err ≠ some .payloadTooLarge)

/-- R114: `FRM.PARSE` writes `P.*`, the status only in mode expectStatus = true, or raises the parse's
error kind and writes nothing else. -/
def Obligations.FrmParseResult : Prop :=
  decode (.op 0x6#4) = .ok .frmParse ∧
  ∀ s : State,
    (∀ pf, parseFrame s.cfg s.ops.ibuf s.ops.esIn = .ok pf →
      exec .frmParse s = .next { s with
        res := { s.res with
        pCmd := pf.command, pStaValid := s.ops.esIn,
        pSta := (if s.ops.esIn then byteAt s.ops.ibuf 3 else s.res.pSta), pData := pf.data, err := none,
        held := (if s.ops.esIn then [.err, .pCmd, .pStaValid, .pSta, .pData, .pDlen]
          else [.err, .pCmd, .pStaValid, .pData, .pDlen]) } }) ∧
    (∀ e, parseFrame s.cfg s.ops.ibuf s.ops.esIn = .error e →
      exec .frmParse s = .next { s with res := { s.res with err := some e, held := [.err] } })

/-- R50 to R55, R113: `ParseFrame` accepts exactly the frames of the two formats: header, a length byte
that counts the bytes there are, command, status exactly in mode expectStatus = true, data, the checksum
of all that, terminator. -/
def Obligations.ParseFrameAcceptsExactlyTheFrames : Prop :=
  ∀ (cfg : Config) (b : List Byte) (es : Bool) (pf : ParsedFrame),
    parseFrame cfg b es = .ok pf ↔
      pf.status.isSome = es ∧
      ∃ len : Byte, len.toNat + cfg.lenExcl.val = b.length ∧
        b = [0xEF, len, pf.command] ++ pf.status.toList ++ pf.data
          ++ [bcc ([0xEF, len, pf.command] ++ pf.status.toList ++ pf.data), 0xFE]

/-- R113, R115, R176, R177, R178: which error kind `ParseFrame` raises, for every input. -/
def Obligations.ParseFrameErrorKinds : Prop :=
  ∀ (cfg : Config) (b : List Byte) (es : Bool) (n : Nat),
    n = (byteAt b 1).toNat + cfg.lenExcl.val →
    (parseFrame cfg b es = .error .incomplete ↔
      b.length = 0 ∨ (byteAt b 0 = 0xEF ∧
        (b.length = 1 ∨ (2 ≤ b.length ∧ 5 + es.toNat ≤ n ∧ b.length < n)))) ∧
    (parseFrame cfg b es = .error .checksumMismatch ↔
      byteAt b 0 = 0xEF ∧ 2 ≤ b.length ∧ 5 + es.toNat ≤ n ∧ b.length = n ∧ byteAt b (n - 1) = 0xFE ∧
        byteAt b (n - 2) ≠ bcc (b.take (n - 2))) ∧
    (parseFrame cfg b es = .error .malformedResponse ↔
      1 ≤ b.length ∧ (byteAt b 0 ≠ 0xEF ∨
        (2 ≤ b.length ∧ (n < 5 + es.toNat ∨ n < b.length ∨
          (b.length = n ∧ byteAt b (n - 1) ≠ 0xFE))))) ∧
    (∀ e, parseFrame cfg b es = .error e →
      e = .incomplete ∨ e = .checksumMismatch ∨ e = .malformedResponse)

/-- R116: frame symmetry, for every command byte and every payload that fits. -/
def Obligations.ParseOfBuiltFrame : Prop :=
  ∀ (cfg : Config) (c : Byte) (p : List Byte), p.length ≤ 250 + cfg.lenExcl.val →
    ∃ f, buildFrame cfg c p = .ok f ∧ f.length = p.length + 5 ∧
      parseFrame cfg f false = .ok { command := c, status := none, data := p }

/-- R114: any proper prefix of a valid frame is `Incomplete`, and a valid frame followed by more bytes is
`MalformedResponse`. -/
def Obligations.PrefixesAreIncompleteAndExtensionsMalformed : Prop :=
  ∀ (cfg : Config) (b : List Byte) (es : Bool) (pf : ParsedFrame), parseFrame cfg b es = .ok pf →
    (∀ k, k < b.length → parseFrame cfg (b.take k) es = .error .incomplete) ∧
    (∀ x more, parseFrame cfg (b ++ x :: more) es = .error .malformedResponse)

/-- R163: changing any one byte of a valid frame to any other value never gives a successful parse, and
which error kind it gives, by the byte's place. -/
def Obligations.OneByteCorruptionNeverParses : Prop :=
  ∀ (cfg : Config) (b : List Byte) (es : Bool) (pf : ParsedFrame) (i : Nat) (v : Byte),
    parseFrame cfg b es = .ok pf → i < b.length → v ≠ byteAt b i →
    parseFrame cfg (b.set i v) es = .error
      (if i = 0 ∨ i = b.length - 1 ∨ (i = 1 ∧ v.toNat < (byteAt b 1).toNat) then .malformedResponse
       else if i = 1 then .incomplete
       else .checksumMismatch)

/-! ## The deframer -/

/-- R121: `DFR.INIT` starts a session, in any state. R121 clears neither `DF.LEN` nor `DF.BUF` and says they
hold no value; that they keep what they carried is the model's choice (log 19). -/
def Obligations.DfrInitResult : Prop :=
  decode (.op 0xB#4) = .ok .dfrInit ∧
  ∀ s : State, exec .dfrInit s = .next { s with
    df := { s.df with es := s.ops.esIn, state := .awaitingHeader, cnt := 0, inited := true },
    res := { s.res with err := none, held := [.err] } }

/-- R130: `DFR.FEED` before any `DFR.INIT` is refused. -/
def Obligations.FeedBeforeInitIsRefused : Prop :=
  ∀ s : State, s.df.inited = false → exec .dfrFeed s = .refused .feedBeforeInit

/-- R122: `DFR.FEED` in `AwaitingHeader`. -/
def Obligations.FeedInAwaitingHeader : Prop :=
  decode (.op 0xC#4) = .ok .dfrFeed ∧
  ∀ s : State, s.df.inited = true → s.df.state = .awaitingHeader →
    exec .dfrFeed s = .next { s with
      df := (if s.ops.rx = 0xEF then
          { s.df with buf := Memory.write s.df.buf 0 s.ops.rx, cnt := 1, state := .awaitingLength }
        else s.df),
      res := { s.res with evt := .incomplete, err := some .incomplete, held := [.err, .evt] } }

/-- R123: `DFR.FEED` in `AwaitingLength`. -/
def Obligations.FeedInAwaitingLength : Prop :=
  ∀ s : State, s.df.inited = true → s.df.state = .awaitingLength →
    (s.ops.rx.toNat + s.cfg.lenExcl.val < 5 + s.df.es.toNat →
      exec .dfrFeed s = .next { s with
        df := { s.df with cnt := 0, state := .awaitingHeader },
        res := { s.res with evt := .error, err := some .malformedResponse, held := [.err, .evt] } }) ∧
    (5 + s.df.es.toNat ≤ s.ops.rx.toNat + s.cfg.lenExcl.val →
      exec .dfrFeed s = .next { s with
        df := { s.df with
          buf := Memory.write s.df.buf 1 s.ops.rx, len := s.ops.rx, cnt := 2,
          state := .awaitingBody },
        res := { s.res with evt := .incomplete, err := some .incomplete, held := [.err, .evt] } })

/-- R124, R125: `DFR.FEED` in `AwaitingBody`: a byte that is not the last is stored; the last one has the
whole frame judged as `ParseFrame` judges it, and the deframer is back in `AwaitingHeader` within the
same operation. -/
def Obligations.FeedInAwaitingBody : Prop :=
  ∀ s : State, s.Inv → s.df.inited = true → s.df.state = .awaitingBody →
    (s.df.cnt + 1 < s.df.len.toNat + s.cfg.lenExcl.val →
      exec .dfrFeed s = .next { s with
        df := { s.df with buf := Memory.write s.df.buf s.df.cnt s.ops.rx, cnt := s.df.cnt + 1 },
        res := { s.res with evt := .incomplete, err := some .incomplete, held := [.err, .evt] } }) ∧
    (s.df.cnt + 1 = s.df.len.toNat + s.cfg.lenExcl.val →
      ∃ f t, f.length = s.df.cnt + 1 ∧
        (∀ i, i < s.df.cnt → f[i]? = Memory.read s.df.buf i) ∧ f[s.df.cnt]? = some s.ops.rx ∧
        exec .dfrFeed s = .next t ∧
        t.cfg = s.cfg ∧ t.ops = s.ops ∧ t.caller = s.caller ∧ t.reads = s.reads ∧
        t.df = { s.df with
          buf := Memory.write s.df.buf s.df.cnt s.ops.rx, cnt := 0,
          state := .awaitingHeader } ∧
        (∀ pf, parseFrame s.cfg f s.df.es = .ok pf →
          t.res = { s.res with
            pCmd := pf.command, pStaValid := s.df.es,
            pSta := (if s.df.es then byteAt f 3 else s.res.pSta), pData := pf.data,
            evt := .frame, err := none,
            held := (if s.df.es then [.err, .evt, .pCmd, .pStaValid, .pSta, .pData, .pDlen]
              else [.err, .evt, .pCmd, .pStaValid, .pData, .pDlen]) }) ∧
        (∀ e, parseFrame s.cfg f s.df.es = .error e →
          (e = .malformedResponse ∨ e = .checksumMismatch) ∧
          t.res = { s.res with evt := .error, err := some e, held := [.err, .evt] }))

/-- What `DFR.FEED` leaves unchanged, in every state: parameters, operand ports, the caller's lists,
`DF.ES`, `DF.INITED`, every result port but `ERR`, `EVT` and `P.*`, and every byte of `DF.BUF` but the
one the state stores to: offset 0 for a header, 1 for a possible length, `DF.CNT` for a body byte. -/
def Obligations.DfrFeedFrame : Prop :=
  ∀ s t : State, exec .dfrFeed s = .next t →
    t.cfg = s.cfg ∧ t.ops = s.ops ∧ t.caller = s.caller ∧ t.reads = s.reads ∧
    t.df.es = s.df.es ∧ t.df.inited = s.df.inited ∧
    (∀ p, p ∉ writablePorts .dfrFeed → t.res.value p = s.res.value p) ∧
    (s.df.state = .awaitingHeader →
      (s.ops.rx = 0xEF → Memory.read t.df.buf 0 = some s.ops.rx ∧
        ∀ a, a ≠ 0 → Memory.read t.df.buf a = Memory.read s.df.buf a) ∧
      (s.ops.rx ≠ 0xEF → ∀ a, Memory.read t.df.buf a = Memory.read s.df.buf a)) ∧
    (s.df.state = .awaitingLength →
      (5 + s.df.es.toNat ≤ s.ops.rx.toNat + s.cfg.lenExcl.val →
        Memory.read t.df.buf 1 = some s.ops.rx ∧
        ∀ a, a ≠ 1 → Memory.read t.df.buf a = Memory.read s.df.buf a) ∧
      (s.ops.rx.toNat + s.cfg.lenExcl.val < 5 + s.df.es.toNat →
        ∀ a, Memory.read t.df.buf a = Memory.read s.df.buf a)) ∧
    (s.df.state = .awaitingBody →
      Memory.read t.df.buf s.df.cnt = some s.ops.rx ∧
      ∀ a, a ≠ s.df.cnt → Memory.read t.df.buf a = Memory.read s.df.buf a)

/-- R17, R131: after `DFR.INIT`, `DFR.FEED` ends in one step for every byte and keeps the invariants of R17,
with them the sizes of the result ports (R14, R30), that `ERR` is never `UnknownStatus` (R179), and the
model's own part of the invariant: the canonical form of `DF.BUF` and that every counted byte of it has been
written (log 4). -/
def Obligations.DfrFeedIsTotal : Prop :=
  ∀ (s : State) (b : Byte), s.Inv → s.df.inited = true →
    ∃ t, exec .dfrFeed (s.load (.rx b)) = .next t ∧ t.Inv ∧ t.df.inited = true

/-- R126: the three events of `DFR.FEED` and the `ERR` that goes with each. -/
def Obligations.FeedEventsAndErrAgree : Prop :=
  ∀ s t : State, s.Inv → exec .dfrFeed s = .next t →
    (t.res.evt = .incomplete ∧ t.res.err = some .incomplete) ∨
    (t.res.evt = .frame ∧ t.res.err = none) ∨
    (t.res.evt = .error ∧
      (t.res.err = some .malformedResponse ∨ t.res.err = some .checksumMismatch))

/-- R122, R128: any number of bytes other than 0xEF before a header are dropped: the deframer does not
change. -/
def Obligations.StrayBytesAreDropped : Prop :=
  ∀ (s : State) (bytes : List Byte), s.df.inited = true → s.df.state = .awaitingHeader →
    (∀ b ∈ bytes, b ≠ 0xEF) →
    ∃ t, feedAll s bytes = .next t ∧ t.df = s.df ∧
      (bytes ≠ [] → t.res.evt = .incomplete ∧ t.res.err = some .incomplete)

/-- R127: fed byte by byte, the deframer agrees with the one-shot parser on every byte sequence that
starts with a header and has the number of bytes its length byte declares. -/
def Obligations.DeframerAgreesWithParseFrame : Prop :=
  ∀ (s : State) (b : List Byte), s.Inv → s.df.inited = true → s.df.state = .awaitingHeader →
    2 ≤ b.length → byteAt b 0 = 0xEF → b.length = (byteAt b 1).toNat + s.cfg.lenExcl.val →
    (5 + s.df.es.toNat ≤ b.length →
      (∀ k, 0 < k → k < b.length →
        ∃ u, feedAll s (b.take k) = .next u ∧ u.res.evt = .incomplete ∧
          u.res.err = some .incomplete) ∧
      ∃ t, feedAll s b = .next t ∧ t.df.state = .awaitingHeader ∧ t.df.cnt = 0 ∧
        (∀ pf, parseFrame s.cfg b s.df.es = .ok pf →
          t.res.evt = .frame ∧ t.res.err = none ∧ t.res.pCmd = pf.command ∧
          t.res.pStaValid = s.df.es ∧ (∀ st ∈ pf.status, t.res.pSta = st) ∧
          t.res.pData = pf.data) ∧
        (∀ e, parseFrame s.cfg b s.df.es = .error e →
          (e = .malformedResponse ∨ e = .checksumMismatch) ∧
          t.res.evt = .error ∧ t.res.err = some e)) ∧
    (b.length < 5 + s.df.es.toNat →
      (∃ u, feedAll s (b.take 1) = .next u ∧ u.res.evt = .incomplete ∧
        u.res.err = some .incomplete) ∧
      ∃ t, feedAll s (b.take 2) = .next t ∧ t.df.state = .awaitingHeader ∧ t.df.cnt = 0 ∧
        t.res.evt = .error ∧ t.res.err = some .malformedResponse ∧
        feedAll s b = feedAll t (b.drop 2))

/-! ## CommandBuilder -/

/-- R141: `CMD.READ` of a valid channel. -/
def Obligations.CmdReadWritesTheFrame : Prop :=
  decode (.op 0x7#4) = .ok .cmdRead ∧
  ∀ s : State, 0 ≤ s.ops.chanIn → s.ops.chanIn ≤ 7 →
    exec .cmdRead s = .next { s with
      res := { s.res with
      obuf := [0xEF, BitVec.ofNat 8 (6 - s.cfg.lenExcl.val), 0x11, BitVec.ofInt 8 s.ops.chanIn,
        ~~~(0xEF ^^^ BitVec.ofNat 8 (6 - s.cfg.lenExcl.val) ^^^ 0x11 ^^^ BitVec.ofInt 8 s.ops.chanIn),
        0xFE],
      err := none, held := [.err, .obuf, .olen] } }

/-- R145: the eight read commands, with the decided `LEN_EXCL = 0`. -/
def Obligations.AllReadCommands : Prop :=
  ∀ (s : State) (c : Nat), s.cfg.lenExcl = 0 → c < 8 → s.ops.chanIn = (c : Int) →
    ∃ t, exec .cmdRead s = .next t ∧ t.res.err = none ∧
      t.res.obuf = [0xEF, 0x06, 0x11, BitVec.ofNat 8 c, BitVec.ofNat 8 (7 - c), 0xFE]

/-- R142: `CMD.WRITE` of a valid channel and a record whose numbers fit. -/
def Obligations.CmdWriteWritesTheFrame : Prop :=
  decode (.op 0x8#4) = .ok .cmdWrite ∧
  ∀ s : State, 0 ≤ s.ops.chanIn → s.ops.chanIn ≤ 7 → s.ops.record.Fits →
    ∃ e f, encodeRecord s.cfg s.ops.record = .ok e ∧
      f = [0xEF, BitVec.ofNat 8 (118 - s.cfg.lenExcl.val), 0x12, BitVec.ofInt 8 s.ops.chanIn] ++ e ∧
      exec .cmdWrite s = .next { s with
        res := { s.res with
        obuf := f ++ [bcc f, 0xFE], err := none, held := [.err, .obuf, .olen] } }

/-- R140, R142, R143, R173, R182: `InvalidChannel` exactly when the signed channel is outside 0 to 7, for
both builders, whatever the record; then, for `CMD.WRITE`, `FieldOverflow` when a number does not fit.
An error writes nothing but `ERR`. -/
def Obligations.CommandBuilderErrors : Prop :=
  ∀ s : State,
    (s.ops.chanIn < 0 ∨ 7 < s.ops.chanIn →
      exec .cmdRead s = .next { s with
        res := { s.res with
        err := some .invalidChannel, held := [.err] } } ∧
      exec .cmdWrite s = .next { s with
        res := { s.res with
        err := some .invalidChannel, held := [.err] } }) ∧
    (0 ≤ s.ops.chanIn → s.ops.chanIn ≤ 7 →
      (∀ t, exec .cmdRead s = .next t ∨ exec .cmdWrite s = .next t →
        t.res.err ≠ some .invalidChannel) ∧
      (¬ s.ops.record.Fits →
        exec .cmdWrite s = .next { s with
          res := { s.res with
          err := some .fieldOverflow, held := [.err] } }))

/-- R72: the five composite operations equal their expansions, error kinds included, in the whole state
they end in. `BCC.VERIFY` compares what `BCC.COMPUTE` gives with the claim. The builders check the channel,
then end as `FRM.BUILD` of their payload does, for `CMD.WRITE` the payload that `REC.ENCODE` gives, or as a
failing `REC.ENCODE` does. The response parsers end as a failing `FRM.PARSE` with a status does, else with
what `Interpret` gives on the parsed frame: its error kind, or every port of its outcome. A present tag's
record, warning and error kind are those of `REC.DECODE` on the data after the channel byte. -/
def Obligations.CompositeOperationsEqualTheirExpansions : Prop :=
  (∀ s : State, s.ops.ibuf ≠ [] →
    ∃ u, exec .bccCompute s = .next u ∧
      exec .bccVerify s = .next { s with res := { s.res with
        okBit := decide (u.res.bccOut = s.ops.claim), err := none, held := [.err, .okBit] } }) ∧
  (∀ s : State, ¬ (0 ≤ s.ops.chanIn ∧ s.ops.chanIn ≤ 7) →
    exec .cmdRead s = .next { s with res := { s.res with err := some .invalidChannel, held := [.err] } } ∧
    exec .cmdWrite s = .next { s with
      res := { s.res with err := some .invalidChannel, held := [.err] } }) ∧
  (∀ s : State, 0 ≤ s.ops.chanIn → s.ops.chanIn ≤ 7 →
    (∃ u, exec .frmBuild { s with
        ops := { s.ops with cmdIn := 0x11, ibuf := [BitVec.ofInt 8 s.ops.chanIn] } } = .next u ∧
      exec .cmdRead s = .next { s with res := u.res }) ∧
    (∃ u, exec .recEncode s = .next u ∧
      (u.res.err ≠ none → exec .cmdWrite s = .next u) ∧
      (u.res.err = none →
        ∃ v, exec .frmBuild { s with ops := { s.ops with
            cmdIn := 0x12, ibuf := BitVec.ofInt 8 s.ops.chanIn :: u.res.obuf } } = .next v ∧
          exec .cmdWrite s = .next { s with res := v.res }))) ∧
  (∀ (s : State) (i : Instr) (expcmd : Byte) (kind : RspKind),
    (i = .rspRead ∧ expcmd = 0x11 ∧ kind = .read) ∨
      (i = .rspWrite ∧ expcmd = s.cfg.writeAckCmd ∧ kind = .write) →
    ∃ u, exec .frmParse { s with ops := { s.ops with esIn := true } } = .next u ∧
      (u.res.err ≠ none → exec i s = .next { s with res := u.res }) ∧
      (u.res.err = none →
        (∀ e, interpret s.cfg ⟨u.res.pCmd, some u.res.pSta, u.res.pData⟩ expcmd kind = .error e →
          exec i s = .next { s with res := { s.res with err := some e, held := [.err] } }) ∧
        (∀ o w, interpret s.cfg ⟨u.res.pCmd, some u.res.pSta, u.res.pData⟩ expcmd kind = .ok (o, w) →
          exec i s = .next { s with res := (match o with
            | .tagPresent ch d => { s.res with
                outcome := .tagPresent, oChan := ch, dRec := d, warn := w, err := none,
                held := [.err, .outcome, .warn, .oChan, .dRec] }
            | .tagAbsent ch => { s.res with
                outcome := .tagAbsent, oChan := ch, warn := w, err := none,
                held := [.err, .outcome, .warn, .oChan] }
            | .authFailure ch => { s.res with
                outcome := .authFailure, oChan := ch, warn := w, err := none,
                held := [.err, .outcome, .warn, .oChan] }
            | .writeOk ch => { s.res with
                outcome := .writeOk, oChan := ch, warn := w, err := none,
                held := [.err, .outcome, .warn, .oChan] }
            | .keyError ch => { s.res with
                outcome := .keyError, oChan := ch, warn := w, err := none,
                held := [.err, .outcome, .warn, .oChan] }
            | .unknownStatus st => { s.res with
                outcome := .unknownStatus, oSta := st, warn := w, err := none,
                held := [.err, .outcome, .warn, .oSta] }) }))) ∧
  (∀ (s : State) (ch : Byte) (img : List Byte),
    ∃ v, exec .recDecode { s with ops := { s.ops with ibuf := img } } = .next v ∧
      (∀ e, v.res.err = some e →
        interpret s.cfg ⟨0x11, some 0x00, ch :: img⟩ 0x11 .read = .error e) ∧
      (v.res.err = none →
        interpret s.cfg ⟨0x11, some 0x00, ch :: img⟩ 0x11 .read =
          .ok (.tagPresent ch v.res.dRec, v.res.warn)))

/-! ## ResponseParser -/

/-- R152, R153, R156 to R159, R161, R175: `RSP.READ` of any response frame of a read, whatever its status
and data: its outcome, `WARN` and ports, or its error kind. -/
def Obligations.RspReadOfAnyReadResponse : Prop :=
  decode (.op 0x9#4) = .ok .rspRead ∧
  ∀ (s : State) (st : Byte) (d : List Byte), d.length ≤ 249 + s.cfg.lenExcl.val →
    s.ops.ibuf = rspFrame s.cfg 0x11 st d →
    (2 < st.toNat → exec .rspRead s = .next { s with
      res := { s.res with
      outcome := .unknownStatus, oSta := st, warn := false, err := none,
      held := [.err, .outcome, .warn, .oSta] } }) ∧
    (st.toNat ≤ 2 → d = [] → exec .rspRead s = .next { s with
      res := { s.res with
      err := some .malformedResponse, held := [.err] } }) ∧
    (∀ ch img, d = ch :: img →
      (st = 0x00 → 112 ≤ img.length → exec .rspRead s = .next { s with
        res := { s.res with
        outcome := .tagPresent, oChan := ch, dRec := recordOf s.cfg img,
        warn := decide (112 < img.length), err := none,
        held := [.err, .outcome, .warn, .oChan, .dRec] } }) ∧
      (st = 0x00 → img.length < 112 → exec .rspRead s = .next { s with
        res := { s.res with
        err := some .invalidLength, held := [.err] } }) ∧
      (st = 0x01 → exec .rspRead s = .next { s with
        res := { s.res with
        outcome := .authFailure, oChan := ch, warn := decide (0 < img.length), err := none,
        held := [.err, .outcome, .warn, .oChan] } }) ∧
      (st = 0x02 → exec .rspRead s = .next { s with
        res := { s.res with
        outcome := .tagAbsent, oChan := ch, warn := decide (0 < img.length), err := none,
        held := [.err, .outcome, .warn, .oChan] } }))

/-- R152, R154, R156 to R159: `RSP.WRITE` of any write acknowledgement. -/
def Obligations.RspWriteOfAnyWriteResponse : Prop :=
  decode (.op 0xA#4) = .ok .rspWrite ∧
  ∀ (s : State) (st : Byte) (d : List Byte), d.length ≤ 249 + s.cfg.lenExcl.val →
    s.ops.ibuf = rspFrame s.cfg s.cfg.writeAckCmd st d →
    (2 < st.toNat → exec .rspWrite s = .next { s with
      res := { s.res with
      outcome := .unknownStatus, oSta := st, warn := false, err := none,
      held := [.err, .outcome, .warn, .oSta] } }) ∧
    (st.toNat ≤ 2 → d = [] → exec .rspWrite s = .next { s with
      res := { s.res with
      err := some .malformedResponse, held := [.err] } }) ∧
    (∀ ch more, d = ch :: more → st.toNat ≤ 2 → exec .rspWrite s = .next { s with
      res := { s.res with
      outcome := (if st = 0x00 then .writeOk else if st = 0x01 then .keyError else .tagAbsent),
      oChan := ch, warn := decide (0 < more.length), err := none,
      held := [.err, .outcome, .warn, .oChan] } })

/-- R151: a valid response of another command is `MalformedResponse`, in both parsers, whatever its
status and data. -/
def Obligations.UnexpectedCommandIsMalformed : Prop :=
  ∀ (s : State) (pf : ParsedFrame), parseFrame s.cfg s.ops.ibuf true = .ok pf →
    (pf.command ≠ 0x11 → exec .rspRead s = .next { s with
      res := { s.res with
      err := some .malformedResponse, held := [.err] } }) ∧
    (pf.command ≠ s.cfg.writeAckCmd → exec .rspWrite s = .next { s with
      res := { s.res with
      err := some .malformedResponse, held := [.err] } })

/-- R155, R182: error kinds of the frame layer go through both response parsers unchanged. -/
def Obligations.FrameLayerErrorsPropagate : Prop :=
  ∀ (s : State) (e : ErrorKind), parseFrame s.cfg s.ops.ibuf true = .error e →
    exec .rspRead s = .next { s with res := { s.res with err := some e, held := [.err] } } ∧
    exec .rspWrite s = .next { s with res := { s.res with err := some e, held := [.err] } }

/-! ## The frame rows -/

/-- The model's choice (log 6): a frame row is the operation its rule names, run on the frame handed over
in the row's mode, for every frame the row matches, valid or not. -/
def Obligations.FrameRowsRunTheirOperation : Prop :=
  ∀ (s : State) (a b c : Byte) (tail : List Byte),
    exec (.readReq c tail) s = exec .frmParse (s.present (0xEF :: 0x06 :: 0x11 :: c :: tail) false 6) ∧
    exec (.writeReq c tail) s = exec .frmParse (s.present (0xEF :: 0x76 :: 0x12 :: c :: tail) false 6) ∧
    exec (.genericCmdFrame a b c tail) s =
      exec .frmParse (s.present (0xEF :: a :: b :: c :: tail) false 6) ∧
    exec (.genericRspFrame a b c tail) s =
      exec .frmParse (s.present (0xEF :: a :: b :: c :: tail) true 6) ∧
    exec (.readRspOk a tail) s =
      exec .rspRead (s.present (0xEF :: a :: 0x11 :: 0x00 :: tail) true 9) ∧
    exec (.readRspAuth a tail) s =
      exec .rspRead (s.present (0xEF :: a :: 0x11 :: 0x01 :: tail) true 9) ∧
    exec (.readRspNotag a tail) s =
      exec .rspRead (s.present (0xEF :: a :: 0x11 :: 0x02 :: tail) true 9) ∧
    exec (.readRspUnknown a c tail) s =
      exec .rspRead (s.present (0xEF :: a :: 0x11 :: c :: tail) true 9) ∧
    exec (.writeRspOk a tail) s =
      exec .rspWrite (s.present (0xEF :: a :: 0x12 :: 0x00 :: tail) true 10) ∧
    exec (.writeRspKeyerr a tail) s =
      exec .rspWrite (s.present (0xEF :: a :: 0x12 :: 0x01 :: tail) true 10) ∧
    exec (.writeRspNotag a tail) s =
      exec .rspWrite (s.present (0xEF :: a :: 0x12 :: 0x02 :: tail) true 10) ∧
    exec (.writeRspUnknown a c tail) s =
      exec .rspWrite (s.present (0xEF :: a :: 0x12 :: c :: tail) true 10)

/-- R64, R113 (as an instruction: the model's choice, log 6): the two command frames of R64, for every
channel byte and record image, end with the frame's command and payload on `P.*`. The bytes each row is
decoded from (R67), with any tail, come first. -/
def Obligations.CommandFrameRowsComplete : Prop :=
  (∀ (ch : Byte) (tail : List Byte),
    decode (.frame false (0xEF :: 0x06 :: 0x11 :: ch :: tail)) = .ok (.readReq ch tail) ∧
    decode (.frame false (0xEF :: 0x76 :: 0x12 :: ch :: tail)) = .ok (.writeReq ch tail)) ∧
  ∀ (s : State) (ch : Byte), s.cfg.lenExcl = 0 →
    exec (.readReq ch [0x07 ^^^ ch, 0xFE]) s = .next { s with
      ops := { s.ops with ibuf := [0xEF, 0x06, 0x11, ch, 0x07 ^^^ ch, 0xFE], esIn := false, op := 6 },
      res := { s.res with
        pCmd := 0x11, pStaValid := false, pData := [ch], err := none,
        held := [.err, .pCmd, .pStaValid, .pData, .pDlen] } } ∧
    ∀ img : List Byte, img.length = 112 →
      exec (.writeReq ch (img ++ [0x74 ^^^ ch ^^^ xorAll img, 0xFE])) s = .next { s with
        ops := { s.ops with
          ibuf := [0xEF, 0x76, 0x12, ch] ++ img ++ [0x74 ^^^ ch ^^^ xorAll img, 0xFE],
          esIn := false, op := 6 },
        res := { s.res with
          pCmd := 0x12, pStaValid := false, pData := ch :: img, err := none,
          held := [.err, .pCmd, .pStaValid, .pData, .pDlen] } }

/-- R64, R153 (as an instruction: the model's choice, log 6): the read responses of R64, and any response
with an unknown status, end with their outcome. The bytes each row is decoded from (R67), with any tail,
come first. -/
def Obligations.ReadResponseRowsComplete : Prop :=
  (∀ (len : Byte) (tail : List Byte),
    decode (.frame true (0xEF :: len :: 0x11 :: 0x00 :: tail)) = .ok (.readRspOk len tail) ∧
    decode (.frame true (0xEF :: len :: 0x11 :: 0x01 :: tail)) = .ok (.readRspAuth len tail) ∧
    decode (.frame true (0xEF :: len :: 0x11 :: 0x02 :: tail)) = .ok (.readRspNotag len tail) ∧
    ∀ st : Byte, 2 < st.toNat →
      decode (.frame true (0xEF :: len :: 0x11 :: st :: tail)) = .ok (.readRspUnknown len st tail)) ∧
  ∀ (s : State) (ch : Byte), s.cfg.lenExcl = 0 →
    (∀ img : List Byte, img.length = 112 →
      exec (.readRspOk 0x77 (ch :: img ++ [0x76 ^^^ ch ^^^ xorAll img, 0xFE])) s = .next { s with
        ops := { s.ops with
          ibuf := [0xEF, 0x77, 0x11, 0x00, ch] ++ img ++ [0x76 ^^^ ch ^^^ xorAll img, 0xFE],
          esIn := true, op := 9 },
        res := { s.res with
          outcome := .tagPresent, oChan := ch, dRec := recordOf s.cfg img,
          warn := false, err := none, held := [.err, .outcome, .warn, .oChan, .dRec] } }) ∧
    exec (.readRspAuth 0x07 [ch, 0x07 ^^^ ch, 0xFE]) s = .next { s with
      ops := { s.ops with
        ibuf := [0xEF, 0x07, 0x11, 0x01, ch, 0x07 ^^^ ch, 0xFE], esIn := true,
        op := 9 },
      res := { s.res with
        outcome := .authFailure, oChan := ch, warn := false, err := none,
        held := [.err, .outcome, .warn, .oChan] } } ∧
    exec (.readRspNotag 0x07 [ch, 0x04 ^^^ ch, 0xFE]) s = .next { s with
      ops := { s.ops with
        ibuf := [0xEF, 0x07, 0x11, 0x02, ch, 0x04 ^^^ ch, 0xFE], esIn := true,
        op := 9 },
      res := { s.res with
        outcome := .tagAbsent, oChan := ch, warn := false, err := none,
        held := [.err, .outcome, .warn, .oChan] } } ∧
    ∀ (st : Byte) (d : List Byte), 2 < st.toNat → d.length ≤ 249 →
      exec (.readRspUnknown (BitVec.ofNat 8 (d.length + 6)) st
          (d ++ [bcc ([0xEF, BitVec.ofNat 8 (d.length + 6), 0x11, st] ++ d), 0xFE])) s = .next { s with
        ops := { s.ops with ibuf := rspFrame s.cfg 0x11 st d, esIn := true, op := 9 },
        res := { s.res with
          outcome := .unknownStatus, oSta := st, warn := false, err := none,
          held := [.err, .outcome, .warn, .oSta] } }

/-- R64, R154 (as an instruction: the model's choice, log 6): the write acknowledgements of R64, and any
with an unknown status, end with their outcome, with the decided `WRITE_ACK_CMD`. The bytes each row is
decoded from (R67), with any tail, come first. -/
def Obligations.WriteResponseRowsComplete : Prop :=
  (∀ (len : Byte) (tail : List Byte),
    decode (.frame true (0xEF :: len :: 0x12 :: 0x00 :: tail)) = .ok (.writeRspOk len tail) ∧
    decode (.frame true (0xEF :: len :: 0x12 :: 0x01 :: tail)) = .ok (.writeRspKeyerr len tail) ∧
    decode (.frame true (0xEF :: len :: 0x12 :: 0x02 :: tail)) = .ok (.writeRspNotag len tail) ∧
    ∀ st : Byte, 2 < st.toNat →
      decode (.frame true (0xEF :: len :: 0x12 :: st :: tail)) = .ok (.writeRspUnknown len st tail)) ∧
  ∀ (s : State) (ch : Byte), s.cfg.lenExcl = 0 → s.cfg.writeAckCmd = 0x12 →
    exec (.writeRspOk 0x07 [ch, 0x05 ^^^ ch, 0xFE]) s = .next { s with
      ops := { s.ops with
        ibuf := [0xEF, 0x07, 0x12, 0x00, ch, 0x05 ^^^ ch, 0xFE], esIn := true,
        op := 10 },
      res := { s.res with
        outcome := .writeOk, oChan := ch, warn := false, err := none,
        held := [.err, .outcome, .warn, .oChan] } } ∧
    exec (.writeRspKeyerr 0x07 [ch, 0x04 ^^^ ch, 0xFE]) s = .next { s with
      ops := { s.ops with
        ibuf := [0xEF, 0x07, 0x12, 0x01, ch, 0x04 ^^^ ch, 0xFE], esIn := true,
        op := 10 },
      res := { s.res with
        outcome := .keyError, oChan := ch, warn := false, err := none,
        held := [.err, .outcome, .warn, .oChan] } } ∧
    exec (.writeRspNotag 0x07 [ch, 0x07 ^^^ ch, 0xFE]) s = .next { s with
      ops := { s.ops with
        ibuf := [0xEF, 0x07, 0x12, 0x02, ch, 0x07 ^^^ ch, 0xFE], esIn := true,
        op := 10 },
      res := { s.res with
        outcome := .tagAbsent, oChan := ch, warn := false, err := none,
        held := [.err, .outcome, .warn, .oChan] } } ∧
    ∀ (st : Byte) (d : List Byte), 2 < st.toNat → d.length ≤ 249 →
      exec (.writeRspUnknown (BitVec.ofNat 8 (d.length + 6)) st
          (d ++ [bcc ([0xEF, BitVec.ofNat 8 (d.length + 6), 0x12, st] ++ d), 0xFE])) s = .next { s with
        ops := { s.ops with ibuf := rspFrame s.cfg 0x12 st d, esIn := true, op := 10 },
        res := { s.res with
          outcome := .unknownStatus, oSta := st, warn := false, err := none,
          held := [.err, .outcome, .warn, .oSta] } }

/-- R67, R113 (as an instruction: the model's choice, log 6): a generic frame of any command, built by the
engine or sent as a response, ends with its parts on `P.*`, for every parameter setting. The bytes each row
is decoded from (R67), those no earlier row of the mode takes, with any tail, come first. -/
def Obligations.GenericFrameRowsComplete : Prop :=
  (∀ (len c x : Byte) (tail : List Byte),
    (¬ (len = 0x06 ∧ c = 0x11) → ¬ (len = 0x76 ∧ c = 0x12) →
      decode (.frame false (0xEF :: len :: c :: x :: tail)) = .ok (.genericCmdFrame len c x tail)) ∧
    (c ≠ 0x11 → c ≠ 0x12 →
      decode (.frame true (0xEF :: len :: c :: x :: tail)) = .ok (.genericRspFrame len c x tail))) ∧
  ∀ (s : State) (len c x : Byte) (tail : List Byte),
    (∀ p, p.length ≤ 250 + s.cfg.lenExcl.val →
      buildFrame s.cfg c p = .ok (0xEF :: len :: c :: x :: tail) →
      exec (.genericCmdFrame len c x tail) s = .next { s with
        ops := { s.ops with ibuf := 0xEF :: len :: c :: x :: tail, esIn := false, op := 6 },
        res := { s.res with
          pCmd := c, pStaValid := false, pData := p, err := none,
          held := [.err, .pCmd, .pStaValid, .pData, .pDlen] } }) ∧
    (∀ d, d.length ≤ 249 + s.cfg.lenExcl.val →
      rspFrame s.cfg c x d = 0xEF :: len :: c :: x :: tail →
      exec (.genericRspFrame len c x tail) s = .next { s with
        ops := { s.ops with ibuf := 0xEF :: len :: c :: x :: tail, esIn := true, op := 6 },
        res := { s.res with
          pCmd := c, pStaValid := true, pSta := x, pData := d, err := none,
          held := [.err, .pCmd, .pStaValid, .pSta, .pData, .pDlen] } })

/-! ## The whole machine -/

/-- R17, R30, R179: the invariants hold after power-on. It rests on reset values that R23 leaves open and
the model chose (log 2, log 3, log 4). -/
def Obligations.ResetMeetsTheInvariants : Prop := State.reset.Inv

/-- R17, R30, R131, R179: every step from every state that meets the invariants leads to one that does. -/
def Obligations.EveryStepKeepsTheInvariants : Prop :=
  ∀ s t : State, s.Inv → step s = .next t → t.Inv

/-- R23: what power-on reset leaves, for the registers the rule gives a value. That a byte of `DF.BUF` has
no value (log 4), and that each result port may be read and carries the value named here (log 2, log 15),
is the model's choice: R23 leaves them unspecified. -/
def Obligations.PowerOnResetValues : Prop :=
  State.reset.df.inited = false ∧ State.reset.df.state = .awaitingHeader ∧ State.reset.df.cnt = 0 ∧
  (∀ a, Memory.read State.reset.df.buf a = none) ∧
  (∀ p, p ∈ State.reset.res.held) ∧
  State.reset.res.err = none ∧ State.reset.res.evt = .incomplete ∧
  State.reset.res.outcome = .tagPresent ∧ State.reset.res.obuf = [] ∧ State.reset.res.pData = [] ∧
  State.reset.res.bccOut = 0 ∧ State.reset.res.okBit = false ∧ State.reset.res.warn = false ∧
  State.reset.res.pCmd = 0 ∧ State.reset.res.pSta = 0 ∧ State.reset.res.pStaValid = false ∧
  State.reset.res.oChan = 0 ∧ State.reset.res.oSta = 0 ∧
  State.reset.res.dRec = ⟨0, [], [], [], 0, 0, 0, 0, 0⟩

/-- R19: a one-shot operation touches no `DF.*` register and no byte of `DF.BUF`, no parameter and none of
the caller's lists; an operation leaves every operand port as it was; a frame row writes `IBUF`, `ES_IN`
and `OP` only (log 6). -/
def Obligations.OneShotFrame : Prop :=
  ∀ (i : Instr) (s t : State), i.isOneShot = true → exec i s = .next t →
    t.df = s.df ∧ t.cfg = s.cfg ∧ t.caller = s.caller ∧ t.reads = s.reads ∧
    (i.isOperation = true → t.ops = s.ops) ∧
    { t.ops with ibuf := s.ops.ibuf, esIn := s.ops.esIn, op := s.ops.op } = s.ops

/-- R14, R24, R70: an instruction leaves every result port it does not write as it was, and after it only
ports it writes hold a value, `ERR` among them. -/
def Obligations.OnlyItsOwnResultPorts : Prop :=
  ∀ (i : Instr) (s t : State), exec i s = .next t →
    (∀ p, p ∉ writablePorts i → t.res.value p = s.res.value p) ∧
    .err ∈ t.res.held ∧ (∀ p ∈ t.res.held, p ∈ writablePorts i)

/-- R19: the results of a one-shot operation depend on its operand ports alone: on nothing the deframer
holds and nothing an earlier operation left. -/
def Obligations.OneShotResultsDependOnOperandsOnly : Prop :=
  ∀ (i : Instr) (s₁ s₂ t₁ : State), i.isOneShot = true → s₁.cfg = s₂.cfg → s₁.ops = s₂.ops →
    exec i s₁ = .next t₁ →
    ∃ t₂, exec i s₂ = .next t₂ ∧ t₁.res.held = t₂.res.held ∧
      ∀ p ∈ t₁.res.held, t₁.res.value p = t₂.res.value p

/-- R180: an error writes `ERR` and nothing else; for `DFR.FEED` also `EVT`, and the deframer's own
registers as R123 and R124 say. R180 speaks of the ten one-shot operations; that a frame row is an
instruction too, and ends so, is the model's choice (log 6). -/
def Obligations.AnErrorWritesErrOnly : Prop :=
  ∀ (i : Instr) (s t : State) (e : ErrorKind), exec i s = .next t → t.res.err = some e →
    (i.isOneShot = true → t.res = { s.res with err := some e, held := [.err] } ∧ t.df = s.df) ∧
    (i = .dfrFeed → t.res = { s.res with err := some e, evt := t.res.evt, held := [.err, .evt] } ∧
      (t.res.evt = .error → t.df.state = .awaitingHeader ∧ t.df.cnt = 0))

/-- R171: which error kinds an instruction can raise. -/
def Obligations.ErrorKindsPerInstruction : Prop :=
  ∀ (i : Instr) (s t : State) (e : ErrorKind), exec i s = .next t → t.res.err = some e →
    e ∈ raisableKinds i

/-- R7, R33: no step changes a parameter; the byte order is not switchable at run time. -/
def Obligations.ParametersNeverChange : Prop :=
  ∀ s t : State, step s = .next t → t.cfg = s.cfg
end

