-- ==== Sys2Proof/Laws/Checksum.lean ====
section
/-! SUPPORT. The checksum: the exclusive-or of a sequence as a homomorphism, and what changing one byte
does to it. -/

namespace Sys2Proof.Machine

theorem xorAll_foldl (l : List Byte) (a : Byte) : l.foldl (· ^^^ ·) a = a ^^^ xorAll l := by
  induction l generalizing a with
  | nil => simp [xorAll]
  | cons b l ih =>
    have h : xorAll (b :: l) = b ^^^ xorAll l := by
      show l.foldl (· ^^^ ·) (0x00#8 ^^^ b) = _
      rw [ih, BitVec.zero_xor]
    rw [List.foldl_cons, ih, h, BitVec.xor_assoc]

@[simp] theorem xorAll_nil : xorAll [] = 0#8 := rfl

@[simp] theorem xorAll_cons (x : Byte) (l : List Byte) : xorAll (x :: l) = x ^^^ xorAll l := by
  show l.foldl (· ^^^ ·) (0x00#8 ^^^ x) = _
  rw [xorAll_foldl, BitVec.zero_xor]

@[simp] theorem xorAll_append (a b : List Byte) : xorAll (a ++ b) = xorAll a ^^^ xorAll b := by
  induction a with
  | nil => simp
  | cons x a ih => simp [ih, BitVec.xor_assoc]

theorem complement_xor (a b : Byte) : ~~~(a ^^^ b) = ~~~a ^^^ b := by ext i; simp

theorem xor_right_cancel {a b c : Byte} : a ^^^ c = b ^^^ c ↔ a = b := by
  refine ⟨fun h => ?_, fun h => h ▸ rfl⟩
  have := congrArg (· ^^^ c) h
  simpa [BitVec.xor_assoc] using this

/-- `BCC` of a sequence with one byte more (R83). -/
theorem bcc_append (a b : List Byte) : bcc (a ++ b) = bcc a ^^^ xorAll b := by
  simp [bcc, complement_xor]

/-- Changing one byte changes the exclusive-or by exactly that change. -/
theorem xorAll_set (l : List Byte) (i : Nat) (v : Byte) (h : i < l.length) :
    xorAll (l.set i v) = xorAll l ^^^ byteAt l i ^^^ v := by
  induction l generalizing i with
  | nil => simp at h
  | cons x l ih =>
    cases i with
    | zero =>
      simp only [List.set_cons_zero, xorAll_cons, byteAt, List.getD_cons_zero]
      rw [BitVec.xor_comm x, BitVec.xor_assoc (xorAll l), BitVec.xor_self, BitVec.xor_zero,
        BitVec.xor_comm]
    | succ i =>
      simp only [List.set_cons_succ, xorAll_cons]
      rw [ih i (by simpa using h)]
      simp [byteAt, BitVec.xor_assoc]

end Sys2Proof.Machine
end

