-- ==== Sys2Proof/Laws/Record.lean ====
section
/-! SUPPORT. The record codec: lengths, the parts of an image, 16-bit numbers, and what `strip` removes. -/

namespace Sys2Proof.Machine

theorem byteAt_eq_getElem {b : List Byte} {i : Nat} (h : i < b.length) : byteAt b i = b[i] := by
  simp [byteAt, List.getD, h]

theorem byteAt_append_left {a b : List Byte} {i : Nat} (h : i < a.length) :
    byteAt (a ++ b) i = byteAt a i := by
  simp [byteAt, List.getD, List.getElem?_append_left h]

theorem byteAt_append_right (a b : List Byte) (i : Nat) :
    byteAt (a ++ b) (a.length + i) = byteAt b i := by
  simp only [byteAt, List.getD, List.getElem?_append_right (Nat.le_add_right _ _),
    Nat.add_sub_cancel_left]

theorem byteAt_append_length (a b : List Byte) : byteAt (a ++ b) a.length = byteAt b 0 := by
  simpa using byteAt_append_right a b 0

theorem byteAt_slice {b : List Byte} {off n i : Nat} (h : i < n) :
    byteAt (slice b off n) i = byteAt b (off + i) := by
  simp [byteAt, slice, List.getD, h]

@[simp] theorem rep_length (x : Byte) (n : Nat) : (rep x n).length = n := by simp [rep]

@[simp] theorem u16Bytes_length (e : Endian) (v : Half) : (u16Bytes e v).length = 2 := by
  cases e <;> rfl

@[simp] theorem textField_length (t : List Byte) (w : Nat) : (textField t w).length = w := by
  simp [textField, pad0, trunc]

/-- The image of a record has 112 bytes (R60). -/
@[simp] theorem recordImage_length (cfg : Config) (r : RecordOperand) :
    (recordImage cfg r).length = 112 := by
  simp [recordImage]
  rfl

/-- The byte of a text field: the text's byte, zero beyond the text (R62, R93). -/
theorem byteAt_textField {t : List Byte} {w i : Nat} (h : i < w) :
    byteAt (textField t w) i = t.getD i 0x00 := by
  simp only [textField, pad0, trunc, byteAt, List.getD, rep, List.length_take]
  by_cases ht : i < t.length
  · rw [List.getElem?_append_left (by simp; omega)]
    simp [h]
  · rw [List.getElem?_append_right (by simp; omega), List.getElem?_eq_none (by omega : t.length ≤ i)]
    rw [List.getElem?_replicate]
    split <;> rfl

theorem extract_append_extract (v : Half) :
    (v.extractLsb' 8 8 ++ v.extractLsb' 0 8 : BitVec 16) = v := by
  apply BitVec.eq_of_getLsbD_eq
  intro i hi
  rw [BitVec.getLsbD_append]
  by_cases h : i < 8
  · simp [h]
  · simp [h, show i - 8 < 8 by omega, show 8 + (i - 8) = i by omega]

/-- The high byte of a 16-bit number. -/
theorem extract_high (v : Half) : v.extractLsb' 8 8 = BitVec.ofNat 8 (v.toNat / 256) := by
  apply BitVec.eq_of_toNat_eq
  simp [BitVec.extractLsb'_toNat, Nat.shiftRight_eq_div_pow]

/-- The low byte of a 16-bit number. -/
theorem extract_low (v : Half) : v.extractLsb' 0 8 = BitVec.ofNat 8 v.toNat := by
  apply BitVec.eq_of_toNat_eq
  simp [BitVec.extractLsb'_toNat]

/-- Two bytes as a 16-bit number. -/
theorem append_toNat (x y : Byte) : (x ++ y : BitVec 16).toNat = x.toNat * 256 + y.toNat := by
  rw [BitVec.toNat_append, ← Nat.shiftLeft_add_eq_or_of_lt y.isLt, Nat.shiftLeft_eq]

/-- A 16-bit number written and read back at once, in either order (R33). -/
theorem u16Read_u16Bytes (e : Endian) (v : Half) (a b : List Byte) :
    u16Read e (a ++ (u16Bytes e v ++ b)) a.length = v := by
  cases e <;> simp only [u16Read, u16Bytes, byteAt_append_length, byteAt_append_right] <;>
    exact extract_append_extract v

theorem u16Read_part {e : Endian} {v : Half} {a b : List Byte} {off : Nat} (h : a.length = off) :
    u16Read e (a ++ (u16Bytes e v ++ b)) off = v := h ▸ u16Read_u16Bytes e v a b

theorem slice_part {a p b : List Byte} {off n : Nat} (h : a.length = off) (hp : p.length = n) :
    slice (a ++ (p ++ b)) off n = p := by
  subst h hp
  simp [slice]

/-- The record of an image just encoded: the numbers, and the stripped field images of the texts. -/
theorem recordOf_recordImage (cfg : Config) (r : RecordOperand) :
    recordOf cfg (recordImage cfg r) =
      { version := half r.version
        manufacturer := strip (textField r.manufacturer 16)
        material := strip (textField r.material 16)
        color := strip (textField r.color 32)
        diameter := half r.diameter
        weight := half r.weight
        printTemp := half r.printTemp
        bedTemp := half r.bedTemp
        density := half r.density } := by
  simp only [recordOf, TagRecord.mk.injEq]
  refine ⟨?_, ?_, ?_, ?_, ?_, ?_, ?_, ?_, ?_⟩
  · have := u16Read_part (e := cfg.recEndian) (v := half r.version) (a := []) (off := 0) rfl
      (b := textField r.manufacturer W_MANUF ++ (textField r.material W_MATERIAL ++
        (textField r.color W_COLOR ++ (u16Bytes cfg.recEndian (half r.diameter) ++
        (u16Bytes cfg.recEndian (half r.weight) ++ (u16Bytes cfg.recEndian (half r.printTemp) ++
        (u16Bytes cfg.recEndian (half r.bedTemp) ++ (u16Bytes cfg.recEndian (half r.density) ++
        rep 0x00 W_RESERVED))))))))
    simpa [recordImage, List.append_assoc] using this
  all_goals simp only [recordImage]
  · rw [List.append_assoc, List.append_assoc, List.append_assoc, List.append_assoc,
      List.append_assoc, List.append_assoc, List.append_assoc, List.append_assoc,
      slice_part (by simp) (by simp)]
  · rw [List.append_assoc, List.append_assoc, List.append_assoc, List.append_assoc,
      List.append_assoc, List.append_assoc, List.append_assoc,
      slice_part (by simp; rfl) (by simp)]
  · rw [List.append_assoc, List.append_assoc, List.append_assoc, List.append_assoc,
      List.append_assoc, List.append_assoc, slice_part (by simp; rfl) (by simp)]
  · rw [List.append_assoc, List.append_assoc, List.append_assoc, List.append_assoc,
      List.append_assoc, u16Read_part (by simp; rfl)]
  · rw [List.append_assoc, List.append_assoc, List.append_assoc, List.append_assoc,
      u16Read_part (by simp; rfl)]
  · rw [List.append_assoc, List.append_assoc, List.append_assoc, u16Read_part (by simp; rfl)]
  · rw [List.append_assoc, List.append_assoc, u16Read_part (by simp; rfl)]
  · rw [List.append_assoc, u16Read_part (by simp; rfl)]

/-- `strip f = t` exactly when `t` is `f` without its longest suffix of padding bytes (R97). -/
theorem strip_eq_iff (f t : List Byte) :
    strip f = t ↔ ∃ pad, f = t ++ pad ∧ (∀ x ∈ pad, isPad x = true) ∧
      (∀ x ∈ t.getLast?, isPad x = false) := by
  constructor
  · rintro rfl
    refine ⟨f.rtakeWhile isPad, ?_, ?_, ?_⟩
    · simp only [strip, List.rdropWhile, List.rtakeWhile]
      rw [← List.reverse_append, List.takeWhile_append_dropWhile, List.reverse_reverse]
    · intro x hx
      exact List.mem_rtakeWhile_imp hx
    · intro x hx
      have hne : strip f ≠ [] := by rintro h; simp [h] at hx
      have := List.rdropWhile_last_not isPad f hne
      rw [List.getLast?_eq_getLast_of_ne_nil hne] at hx
      obtain rfl := Option.some.inj hx
      simpa [strip] using this
  · rintro ⟨pad, rfl, hp, ht⟩
    induction pad using List.reverseRecOn with
    | nil =>
      rw [List.append_nil]
      rcases List.eq_nil_or_concat t with rfl | ⟨t', x, rfl⟩
      · rfl
      · have hx : isPad x = false := ht x (by simp)
        simp only [List.concat_eq_append] at ht ⊢
        exact List.rdropWhile_concat_neg _ _ _ (by simp [hx])
    | append_singleton pad x ih =>
      rw [← List.append_assoc, strip, List.rdropWhile_concat_pos _ _ _ (hp x (by simp))]
      exact ih (fun y hy => hp y (by simp [hy]))

end Sys2Proof.Machine
end

