-- ==== Sys2Proof/Laws/Frame.lean ====
section
/-! SUPPORT. The frame codec: when a build answers, when a parse answers, and what each answers then. -/

namespace Sys2Proof

theorem Config.lenExcl_le (cfg : Config) : cfg.lenExcl.val ≤ 2 := by
  have := cfg.lenExcl.isLt
  omega

end Sys2Proof

namespace Sys2Proof.Machine

theorem minFrame_eq (es : Bool) : minFrame es = 5 + es.toNat := by cases es <;> rfl

/-- A build answers exactly when the payload fits, and then it answers the frame of R51. -/
theorem buildFrame_ok_iff (cfg : Config) (c : Byte) (p f : List Byte) :
    buildFrame cfg c p = .ok f ↔
      p.length ≤ 250 + cfg.lenExcl.val ∧
      f = [HEADER, BitVec.ofNat 8 (p.length + 5 - cfg.lenExcl.val), c] ++ p ++
        [bcc ([HEADER, BitVec.ofNat 8 (p.length + 5 - cfg.lenExcl.val), c] ++ p), TERM] := by
  simp only [buildFrame]
  split
  · constructor
    · intro h; cases h
    · rintro ⟨h, _⟩; omega
  · constructor
    · intro h; cases h; exact ⟨by omega, rfl⟩
    · rintro ⟨_, rfl⟩; rfl

/-- A build fails in one way only (R110). -/
theorem buildFrame_error_iff (cfg : Config) (c : Byte) (p : List Byte) (e : ErrorKind) :
    buildFrame cfg c p = .error e ↔ p.length > 250 + cfg.lenExcl.val ∧ e = .payloadTooLarge := by
  simp only [buildFrame]
  split
  · constructor
    · intro h; cases h; exact ⟨by omega, rfl⟩
    · rintro ⟨_, rfl⟩; rfl
  · constructor
    · intro h; cases h
    · rintro ⟨h, _⟩; omega

/-- A parse answers exactly when every check of R113 passes, and then it answers the split. -/
theorem parseFrame_ok_iff (cfg : Config) (b : List Byte) (es : Bool) (pf : ParsedFrame) :
    parseFrame cfg b es = .ok pf ↔
      2 ≤ b.length ∧ byteAt b 0 = HEADER ∧
      b.length = (byteAt b 1).toNat + cfg.lenExcl.val ∧ minFrame es ≤ b.length ∧
      byteAt b (b.length - 1) = TERM ∧ byteAt b (b.length - 2) = bcc (slice b 0 (b.length - 2)) ∧
      pf = splitFrame b b.length es := by
  simp only [parseFrame]
  generalize hn : (byteAt b 1).toNat + cfg.lenExcl.val = n
  split
  case isTrue h => simp [h]
  case isFalse h0 =>
  split
  case isTrue h => exact ⟨fun e => (nomatch e), fun hb => absurd hb.2.1 h⟩
  case isFalse h1 =>
  split
  case isTrue h => simp; omega
  case isFalse h2 =>
  split
  case isTrue h => simp; omega
  case isFalse h3 =>
  split
  case isTrue h => simp; omega
  case isFalse h4 =>
  split
  case isTrue h => simp; omega
  case isFalse h5 =>
  obtain rfl : n = b.length := by omega
  split
  case isTrue h => exact ⟨fun e => (nomatch e), fun hb => absurd hb.2.2.2.2.1 h⟩
  case isFalse h6 =>
  split
  case isTrue h => exact ⟨fun e => (nomatch e), fun hb => absurd hb.2.2.2.2.2.1 h⟩
  case isFalse h7 =>
  simp only [not_not] at h1 h6 h7
  simp only [Except.ok.injEq, h1, h6, ← h7, true_and]
  exact ⟨fun h => ⟨by omega, by omega, h.symm⟩, fun h => h.2.2.symm⟩

/-- A parse fails with one of three error kinds (R113). -/
theorem parseFrame_error_kinds {cfg : Config} {b : List Byte} {es : Bool} {e : ErrorKind}
    (h : parseFrame cfg b es = .error e) :
    e = .incomplete ∨ e = .checksumMismatch ∨ e = .malformedResponse := by
  simp only [parseFrame] at h
  repeat' split at h
  all_goals first | (cases h; simp) | cases h

/-- Once the declared bytes are all there and the header is right, only the terminator and the checksum
can fail (R113 steps 7 and 8, R124). -/
theorem parseFrame_of_complete {cfg : Config} {b : List Byte} {es : Bool}
    (h0 : byteAt b 0 = HEADER) (hn : b.length = (byteAt b 1).toNat + cfg.lenExcl.val)
    (hm : minFrame es ≤ b.length) :
    parseFrame cfg b es =
      if byteAt b (b.length - 1) ≠ TERM then .error .malformedResponse
      else if byteAt b (b.length - 2) ≠ bcc (slice b 0 (b.length - 2)) then .error .checksumMismatch
      else .ok (splitFrame b b.length es) := by
  have h5 : 5 ≤ b.length := by cases es <;> simp [minFrame] at hm <;> omega
  simp only [parseFrame]
  rw [if_neg (by omega), if_neg (by simp [h0]), if_neg (by omega), ← hn, if_neg (by omega),
    if_neg (by omega), if_neg (by omega)]

/-- The data of a parsed frame fits `P.DATA` (R14, R30). -/
theorem splitFrame_data_length (b : List Byte) (n : Nat) (es : Bool) :
    (splitFrame b n es).data.length ≤ n - 5 := by
  cases es
  · simp [splitFrame, slice]
  · simp [splitFrame, slice]
    omega

end Sys2Proof.Machine
end

