-- ==== Sys2Proof/Laws/Memory.lean ====
section
/-! SUPPORT. The laws of the buffer: read after write, the canonical form is kept, and what
`readRange` reads. -/

namespace Sys2Proof.Machine

/-- A write is read back at its offset and leaves every other offset alone. -/
theorem Memory.read_write (m : Memory) (a b : Nat) (v : Byte) :
    Memory.read (Memory.write m a v) b = if b = a then some v else Memory.read m b := by
  induction m with
  | nil => simp only [Memory.write, Memory.read, eq_comm]
  | cons c rest ih =>
    by_cases h1 : a < c.1
    · simp only [Memory.write, if_pos h1, Memory.read]
      by_cases h : b = a
      · simp [h]
      · simp [h, Ne.symm h]
    · by_cases h2 : a = c.1
      · subst h2
        simp only [Memory.write, if_neg h1, Memory.read, if_true]
        by_cases h : b = c.1
        · simp [h]
        · have h' : ¬ c.1 = b := fun e => h e.symm
          simp [h, h']
      · simp only [Memory.write, if_neg h1, if_neg h2, Memory.read, ih]
        by_cases h : c.1 = b
        · have hb : b ≠ a := fun e => h2 (by omega)
          simp [h, hb]
        · simp [h]

@[simp] theorem Memory.read_write_same (m : Memory) (a : Nat) (v : Byte) :
    Memory.read (Memory.write m a v) a = some v := by simp [Memory.read_write]

theorem Memory.read_write_other (m : Memory) {a b : Nat} (v : Byte) (h : b ≠ a) :
    Memory.read (Memory.write m a v) b = Memory.read m b := by simp [Memory.read_write, h]

/-- Every cell of a list is at or above a bound, as `wf` needs it of a tail. -/
theorem Memory.wf_cons (c : Host.Cell) (m : Memory) :
    Memory.wf (c :: m) = true ↔ (∀ d ∈ m, c.1 < d.1) ∧ Memory.wf m = true := by
  induction m generalizing c with
  | nil => simp [Memory.wf]
  | cons d rest ih =>
    simp only [Memory.wf, Bool.and_eq_true, decide_eq_true_eq, List.mem_cons, forall_eq_or_imp]
    constructor
    · rintro ⟨h, hw⟩
      exact ⟨⟨h, fun e he => lt_trans h (((ih d).1 hw).1 e he)⟩, hw⟩
    · rintro ⟨⟨h, _⟩, hw⟩
      exact ⟨h, hw⟩

theorem Memory.mem_write {m : Memory} {a : Nat} {v : Byte} {c : Host.Cell}
    (h : c ∈ Memory.write m a v) : c = (a, v) ∨ c ∈ m := by
  induction m with
  | nil => exact .inl (by simpa [Memory.write] using h)
  | cons d rest ih =>
    simp only [Memory.write] at h
    split at h
    · simpa [List.mem_cons] using h
    · split at h
      · rcases List.mem_cons.1 h with h | h
        · exact .inl h
        · exact .inr (List.mem_cons_of_mem _ h)
      · rcases List.mem_cons.1 h with h | h
        · exact .inr (h ▸ List.mem_cons_self)
        · exact (ih h).imp id (List.mem_cons_of_mem _)

/-- A write keeps the canonical form. -/
theorem Memory.wf_write {m : Memory} (a : Nat) (v : Byte) (h : Memory.wf m = true) :
    Memory.wf (Memory.write m a v) = true := by
  induction m with
  | nil => rfl
  | cons c rest ih =>
    obtain ⟨hlt, hw⟩ := (Memory.wf_cons c rest).1 h
    simp only [Memory.write]
    split
    case isTrue h1 =>
      refine (Memory.wf_cons _ _).2 ⟨fun d hd => ?_, h⟩
      rcases List.mem_cons.1 hd with rfl | hd
      · exact h1
      · exact lt_trans h1 (hlt d hd)
    case isFalse h1 =>
      split
      case isTrue h2 =>
        subst h2
        exact (Memory.wf_cons _ _).2 ⟨fun d hd => hlt d hd, hw⟩
      case isFalse h2 =>
        refine (Memory.wf_cons _ _).2 ⟨fun d hd => ?_, ih hw⟩
        rcases Memory.mem_write hd with rfl | hd
        · have : c.1 ≠ a := fun e => h2 e.symm
          show c.1 < a
          omega
        · exact hlt d hd

/-- `readRange` reads the bytes of the range in order. -/
theorem Memory.readRange_eq_some {m : Memory} {n off : Nat} {l : List Byte} :
    Memory.readRange m off n = some l ↔
      l.length = n ∧ ∀ i, i < n → Memory.read m (off + i) = l[i]? := by
  induction n generalizing off l with
  | zero =>
    simp only [Memory.readRange, Option.some.injEq, Nat.not_lt_zero, false_imp_iff, implies_true,
      and_true]
    exact ⟨fun h => by simp [← h], fun h => (List.eq_nil_of_length_eq_zero h).symm⟩
  | succ n ih =>
    simp only [Memory.readRange]
    constructor
    · intro h
      split at h
      case h_1 b bs hb hbs =>
        obtain rfl := Option.some.inj h
        obtain ⟨hl, hr⟩ := ih.1 hbs
        refine ⟨by simp [hl], fun i hi => ?_⟩
        cases i with
        | zero => simpa using hb
        | succ i =>
          have := hr i (by omega)
          rw [show off + (i + 1) = off + 1 + i by omega, this]
          simp
      case h_2 => cases h
    · rintro ⟨hl, hr⟩
      cases l with
      | nil => simp at hl
      | cons b bs =>
        have hb : Memory.read m off = some b := by simpa using hr 0 (by omega)
        have hbs : Memory.readRange m (off + 1) n = some bs :=
          ih.2 ⟨by simpa using hl, fun i hi => by
            have := hr (i + 1) (by omega)
            rw [show off + 1 + i = off + (i + 1) by omega, this]
            simp⟩
        simp [hb, hbs]

/-- A range whose bytes have all been written can be read. -/
theorem Memory.readRange_isSome {m : Memory} {n off : Nat}
    (h : ∀ i, i < n → (Memory.read m (off + i)).isSome = true) :
    ∃ l, Memory.readRange m off n = some l := by
  induction n generalizing off with
  | zero => exact ⟨[], rfl⟩
  | succ n ih =>
    obtain ⟨b, hb⟩ := Option.isSome_iff_exists.1 (h 0 (by omega))
    obtain ⟨bs, hbs⟩ := ih (off := off + 1) (fun i hi => by
      have := h (i + 1) (by omega)
      rwa [show off + (i + 1) = off + 1 + i by omega] at this)
    rw [Nat.add_zero] at hb
    exact ⟨b :: bs, by simp [Memory.readRange, hb, hbs]⟩

end Sys2Proof.Machine
end

