-- ==== Sys2Proof/Laws/State.lean ====
section
/-! SUPPORT. One lemma per field per update of the state, all true by unfolding. -/

namespace Sys2Proof.Machine

section
variable (s : State) (r : ResultPorts) (ps : List ResultPort) (e : ErrorKind)

@[simp] theorem State.finish_cfg : (s.finish r ps).cfg = s.cfg := rfl
@[simp] theorem State.finish_ops : (s.finish r ps).ops = s.ops := rfl
@[simp] theorem State.finish_df : (s.finish r ps).df = s.df := rfl
@[simp] theorem State.finish_caller : (s.finish r ps).caller = s.caller := rfl
@[simp] theorem State.finish_reads : (s.finish r ps).reads = s.reads := rfl
@[simp] theorem State.finish_res :
    (s.finish r ps).res = { r with err := none, held := .err :: ps } := rfl

@[simp] theorem State.raise_cfg : (s.raise e).cfg = s.cfg := rfl
@[simp] theorem State.raise_ops : (s.raise e).ops = s.ops := rfl
@[simp] theorem State.raise_df : (s.raise e).df = s.df := rfl
@[simp] theorem State.raise_caller : (s.raise e).caller = s.caller := rfl
@[simp] theorem State.raise_reads : (s.raise e).reads = s.reads := rfl
@[simp] theorem State.raise_res :
    (s.raise e).res = { s.res with err := some e, held := [.err] } := rfl

@[simp] theorem State.settle_ok : s.settle (.ok (r, ps)) = s.finish r ps := rfl
@[simp] theorem State.settle_error : s.settle (.error e) = s.raise e := rfl

end

section
variable (s : State) (f : List Byte) (es : Bool) (op : BitVec 4)

@[simp] theorem State.present_cfg : (s.present f es op).cfg = s.cfg := rfl
@[simp] theorem State.present_res : (s.present f es op).res = s.res := rfl
@[simp] theorem State.present_df : (s.present f es op).df = s.df := rfl
@[simp] theorem State.present_caller : (s.present f es op).caller = s.caller := rfl
@[simp] theorem State.present_reads : (s.present f es op).reads = s.reads := rfl
@[simp] theorem State.present_ibuf : (s.present f es op).ops.ibuf = f := rfl
@[simp] theorem State.present_esIn : (s.present f es op).ops.esIn = es := rfl

end

section
variable (s : State) (v : Event) (e : ErrorKind) (pf : ParsedFrame)

@[simp] theorem State.feedEvent_cfg : (s.feedEvent v e).cfg = s.cfg := rfl
@[simp] theorem State.feedEvent_ops : (s.feedEvent v e).ops = s.ops := rfl
@[simp] theorem State.feedEvent_df : (s.feedEvent v e).df = s.df := rfl
@[simp] theorem State.feedEvent_caller : (s.feedEvent v e).caller = s.caller := rfl
@[simp] theorem State.feedEvent_reads : (s.feedEvent v e).reads = s.reads := rfl
@[simp] theorem State.feedEvent_res :
    (s.feedEvent v e).res = { s.res with evt := v, err := some e, held := [.err, .evt] } := rfl

@[simp] theorem State.feedFrame_cfg : (s.feedFrame pf).cfg = s.cfg := rfl
@[simp] theorem State.feedFrame_ops : (s.feedFrame pf).ops = s.ops := rfl
@[simp] theorem State.feedFrame_df : (s.feedFrame pf).df = s.df := rfl
@[simp] theorem State.feedFrame_caller : (s.feedFrame pf).caller = s.caller := rfl
@[simp] theorem State.feedFrame_reads : (s.feedFrame pf).reads = s.reads := rfl

end

section
variable (s : State) (w : PortWrite) (rest : List CallerAct) (code : BitVec 4)

@[simp] theorem State.load_cfg : (s.load w).cfg = s.cfg := rfl
@[simp] theorem State.load_res : (s.load w).res = s.res := rfl
@[simp] theorem State.load_df : (s.load w).df = s.df := rfl
@[simp] theorem State.load_caller : (s.load w).caller = s.caller := rfl
@[simp] theorem State.load_reads : (s.load w).reads = s.reads := rfl
@[simp] theorem State.load_ops : (s.load w).ops = s.ops.write w := rfl
@[simp] theorem OperandPorts.write_rx (o : OperandPorts) (b : Byte) :
    o.write (.rx b) = { o with rx := b } := rfl

@[simp] theorem State.popCaller_cfg : (s.popCaller rest).cfg = s.cfg := rfl
@[simp] theorem State.popCaller_ops : (s.popCaller rest).ops = s.ops := rfl
@[simp] theorem State.popCaller_res : (s.popCaller rest).res = s.res := rfl
@[simp] theorem State.popCaller_df : (s.popCaller rest).df = s.df := rfl
@[simp] theorem State.popCaller_caller : (s.popCaller rest).caller = rest := rfl
@[simp] theorem State.popCaller_reads : (s.popCaller rest).reads = s.reads := rfl

@[simp] theorem State.accept_cfg (f : Fetch) : (s.accept f).cfg = s.cfg := by cases f <;> rfl
@[simp] theorem State.accept_res (f : Fetch) : (s.accept f).res = s.res := by cases f <;> rfl
@[simp] theorem State.accept_df (f : Fetch) : (s.accept f).df = s.df := by cases f <;> rfl
@[simp] theorem State.accept_caller (f : Fetch) : (s.accept f).caller = s.caller := by cases f <;> rfl
@[simp] theorem State.accept_reads (f : Fetch) : (s.accept f).reads = s.reads := by cases f <;> rfl
@[simp] theorem State.accept_op :
    s.accept (.op code) = { s with ops := { s.ops with op := code } } := rfl
@[simp] theorem State.accept_frame (es : Bool) (b : List Byte) : s.accept (.frame es b) = s := rfl

end

/-! ## What the caller reads -/

theorem State.readTarget_of_held {s : State} {p : ResultPort} (h : p ∈ s.res.held) :
    s.readTarget (.port p) = .ok (s.res.value p) := if_pos h

theorem State.readTarget_of_not_held {s : State} {p : ResultPort} (h : p ∉ s.res.held) :
    s.readTarget (.port p) = .error (.portHoldsNoValue p) := if_neg h

theorem ResultPort.mem_all (p : ResultPort) : p ∈ ResultPort.all := by cases p <;> decide

end Sys2Proof.Machine
end

