-- ==== Sys2Proof/Laws/Deframer.lean ====
section
/-! SUPPORT. What one `DFR.FEED` can do, said once, and what the buffer holds when a frame ends. -/

namespace Sys2Proof.Machine

/-- Everything a `DFR.FEED` that answers a next state can do (R122, R123, R124). -/
theorem execDfrFeed_cases {s t : State} (h : execDfrFeed s = .next t) :
    s.df.inited = true ∧
    ((s.df.state = .awaitingHeader ∧ t = s.feedHeader) ∨
     (s.df.state = .awaitingLength ∧ t = s.feedLength) ∨
     (s.df.state = .awaitingBody ∧ s.df.cnt < s.cfg.maxFrame ∧
      ((s.df.cnt + 1 < s.df.len.toNat + s.cfg.lenExcl.val ∧
          t = s.storeBody.feedEvent .incomplete .incomplete) ∨
       (s.df.len.toNat + s.cfg.lenExcl.val ≤ s.df.cnt + 1 ∧
          ∃ f, Memory.readRange s.storeBody.df.buf 0 (s.df.cnt + 1) = some f ∧
            t = s.storeBody.endFrame f)))) := by
  simp only [execDfrFeed] at h
  split at h
  case isFalse => cases h
  case isTrue hi =>
    refine ⟨hi, ?_⟩
    split at h
    case h_1 hs => cases h; exact .inl ⟨hs, rfl⟩
    case h_2 hs => cases h; exact .inr (.inl ⟨hs, rfl⟩)
    case h_4 => cases h
    case h_3 hs =>
      refine .inr (.inr ⟨hs, ?_⟩)
      simp only [State.feedBody] at h
      split at h
      case isFalse => cases h
      case isTrue hc =>
        refine ⟨hc, ?_⟩
        split at h
        case isTrue hl => cases h; exact .inl ⟨hl, rfl⟩
        case isFalse hl =>
          split at h
          case h_2 => cases h
          case h_1 f hf =>
            cases h
            exact .inr ⟨Nat.le_of_not_lt hl, f, hf, rfl⟩

/-- At the end of a frame, in a state the invariants allow, the buffer holds the whole frame: it begins
with the header and the length byte, and has the declared size (R17, R124). -/
theorem endOfFrame_bytes {s : State} (hi : Deframer.Inv s.cfg s.df)
    (hs : s.df.state = .awaitingBody) :
    s.df.cnt < s.cfg.maxFrame ∧
    ∃ f, Memory.readRange s.storeBody.df.buf 0 (s.df.cnt + 1) = some f ∧ f.length = s.df.cnt + 1 ∧
      (∀ i, i < s.df.cnt → f[i]? = Memory.read s.df.buf i) ∧ f[s.df.cnt]? = some s.ops.rx ∧
      byteAt f 0 = HEADER ∧ byteAt f 1 = s.df.len := by
  obtain ⟨-, -, hw, -, -, -, -, hb⟩ := hi
  obtain ⟨h2, hlt, h0, h1, -⟩ := hb hs
  have hmax : s.df.cnt < s.cfg.maxFrame := by
    have := s.df.len.isLt
    simp only [Config.maxFrame]
    omega
  obtain ⟨f, hf⟩ := Memory.readRange_isSome (m := s.storeBody.df.buf) (n := s.df.cnt + 1) (off := 0)
    (fun i hi => by
      simp only [State.storeBody, Nat.zero_add, Memory.read_write]
      split
      · rfl
      · exact hw i (by omega))
  obtain ⟨hl, hr⟩ := Memory.readRange_eq_some.1 hf
  have hold : ∀ i, i < s.df.cnt → f[i]? = Memory.read s.df.buf i := fun i hi => by
    rw [← hr i (by omega), Nat.zero_add]
    exact Memory.read_write_other _ _ (by omega)
  refine ⟨hmax, f, hf, hl, hold, ?_, ?_, ?_⟩
  · rw [← hr _ (by omega), Nat.zero_add]
    exact Memory.read_write_same _ _ _
  · simp [byteAt, List.getD, hold 0 (by omega), h0]
  · simp [byteAt, List.getD, hold 1 (by omega), h1]

end Sys2Proof.Machine
end

