-- ==== Sys2Proof/Laws/Ops.lean ====
section
/-! SUPPORT. For each shared operation, everything it can do: the two ends of a one-shot operation, the
record codec, the command builders, and the interpretation of a parsed response. -/

namespace Sys2Proof.Machine

/-! ## How an operation ends -/

/-- A one-shot operation touches the result ports only, and ends in one of two ways (R170, R180). -/
theorem State.settle_cases (s : State) (r : OpResult) :
    (s.settle r).cfg = s.cfg ∧ (s.settle r).ops = s.ops ∧ (s.settle r).df = s.df ∧
    (s.settle r).caller = s.caller ∧ (s.settle r).reads = s.reads ∧
    ((∃ p ports, r = .ok (p, ports) ∧
        (s.settle r).res = { p with err := none, held := .err :: ports }) ∨
     (∃ e, r = .error e ∧ (s.settle r).res = { s.res with err := some e, held := [.err] })) := by
  rcases r with e | ⟨p, ports⟩
  · exact ⟨rfl, rfl, rfl, rfl, rfl, .inr ⟨e, rfl, rfl⟩⟩
  · exact ⟨rfl, rfl, rfl, rfl, rfl, .inl ⟨p, ports, rfl, rfl⟩⟩

@[simp] theorem State.emitOp_ok (s : State) (f : List Byte) :
    s.emitOp (.ok f) =
      { s with res := { s.res with obuf := f, err := none, held := [.err, .obuf, .olen] } } := rfl

@[simp] theorem State.emitOp_error (s : State) (e : ErrorKind) : s.emitOp (.error e) = s.raise e := rfl

theorem State.parseOp_ok {s : State} {pf : ParsedFrame}
    (h : parseFrame s.cfg s.ops.ibuf s.ops.esIn = .ok pf) :
    s.parseOp = s.finish (s.res.withParsed pf) (parsedPorts pf) := by
  simp [State.parseOp, h]

theorem State.parseOp_error {s : State} {e : ErrorKind}
    (h : parseFrame s.cfg s.ops.ibuf s.ops.esIn = .error e) : s.parseOp = s.raise e := by
  simp [State.parseOp, h]

theorem State.respondOp_ok {s : State} {c : Byte} {k : RspKind} {o : RspOutcome} {w : Bool}
    (h : parseResponse s.cfg s.ops.ibuf c k = .ok (o, w)) :
    s.respondOp c k = s.finish (s.res.withOutcome o w) (outcomePorts o) := by
  simp [State.respondOp, h]

theorem State.respondOp_error {s : State} {c : Byte} {k : RspKind} {e : ErrorKind}
    (h : parseResponse s.cfg s.ops.ibuf c k = .error e) : s.respondOp c k = s.raise e := by
  simp [State.respondOp, h]

/-! ## The record codec and the command builders -/

theorem overflows_eq_false_iff (r : RecordOperand) : r.overflows = false ↔ r.Fits := by
  simp [RecordOperand.overflows, overflows, numericMax, RecordOperand.Fits, and_assoc]

theorem encodeRecord_ok_iff (cfg : Config) (r : RecordOperand) (e : List Byte) :
    encodeRecord cfg r = .ok e ↔ r.Fits ∧ e = recordImage cfg r := by
  rw [← overflows_eq_false_iff, encodeRecord]
  cases r.overflows <;> simp [eq_comm]

theorem encodeRecord_error_iff (cfg : Config) (r : RecordOperand) (k : ErrorKind) :
    encodeRecord cfg r = .error k ↔ ¬ r.Fits ∧ k = .fieldOverflow := by
  rw [← overflows_eq_false_iff, encodeRecord]
  cases r.overflows <;> simp [eq_comm]

theorem decodeRecord_ok_iff (cfg : Config) (b : List Byte) (d : TagRecord) (w : Bool) :
    decodeRecord cfg b = .ok (d, w) ↔
      112 ≤ b.length ∧ d = recordOf cfg b ∧ w = decide (112 < b.length) := by
  simp only [decodeRecord, REC_SIZE, warnRecord]
  split
  · constructor
    · intro h; cases h
    · rintro ⟨h, -⟩; omega
  · constructor
    · intro h; cases h; exact ⟨by omega, rfl, rfl⟩
    · rintro ⟨-, rfl, rfl⟩; rfl

theorem decodeRecord_error_iff (cfg : Config) (b : List Byte) (k : ErrorKind) :
    decodeRecord cfg b = .error k ↔ b.length < 112 ∧ k = .invalidLength := by
  simp only [decodeRecord, REC_SIZE]
  split
  · constructor
    · intro h; cases h; exact ⟨by omega, rfl⟩
    · rintro ⟨-, rfl⟩; rfl
  · constructor
    · intro h; cases h
    · rintro ⟨h, -⟩; omega

theorem validChannel_iff (ch : Int) : validChannel ch = true ↔ 0 ≤ ch ∧ ch ≤ 7 := by
  simp only [validChannel, NCHAN, decide_eq_true_eq]
  omega

theorem readCommand_of_invalid {cfg : Config} {ch : Int} (h : ¬ (0 ≤ ch ∧ ch ≤ 7)) :
    readCommand cfg ch = .error .invalidChannel := by
  rw [readCommand, if_neg (by rwa [validChannel_iff])]

theorem readCommand_of_valid {cfg : Config} {ch : Int} (h : 0 ≤ ch ∧ ch ≤ 7) :
    readCommand cfg ch = buildFrame cfg CMD_READ [channelByte ch] := by
  rw [readCommand, if_pos (by rwa [validChannel_iff])]

theorem writeCommand_of_invalid {cfg : Config} {ch : Int} {r : RecordOperand}
    (h : ¬ (0 ≤ ch ∧ ch ≤ 7)) : writeCommand cfg ch r = .error .invalidChannel := by
  rw [writeCommand, if_neg (by rwa [validChannel_iff])]

theorem writeCommand_of_overflow {cfg : Config} {ch : Int} {r : RecordOperand}
    (h : 0 ≤ ch ∧ ch ≤ 7) (hr : ¬ r.Fits) : writeCommand cfg ch r = .error .fieldOverflow := by
  rw [writeCommand, if_pos (by rwa [validChannel_iff]), (encodeRecord_error_iff cfg r _).2 ⟨hr, rfl⟩]

theorem writeCommand_of_fits {cfg : Config} {ch : Int} {r : RecordOperand}
    (h : 0 ≤ ch ∧ ch ≤ 7) (hr : r.Fits) :
    writeCommand cfg ch r = buildFrame cfg CMD_WRITE (channelByte ch :: recordImage cfg r) := by
  rw [writeCommand, if_pos (by rwa [validChannel_iff]), (encodeRecord_ok_iff cfg r _).2 ⟨hr, rfl⟩]

/-! ## Responses -/

/-- The frame a module would send is accepted, and taken apart into what it was made of (R53, R113). -/
theorem parseFrame_rspFrame (cfg : Config) (c st : Byte) (d : List Byte)
    (hd : d.length ≤ 249 + cfg.lenExcl.val) :
    parseFrame cfg (rspFrame cfg c st d) true = .ok { command := c, status := some st, data := d } := by
  have he := cfg.lenExcl_le
  let h : List Byte := [HEADER, BitVec.ofNat 8 (d.length + 6 - cfg.lenExcl.val), c, st] ++ d
  have hh : h.length = d.length + 4 := by simp [h]
  have hf : rspFrame cfg c st d = h ++ [bcc h, TERM] := rfl
  have hl : (rspFrame cfg c st d).length = d.length + 6 := by simp [hf, hh]
  rw [parseFrame_ok_iff, hl]
  refine ⟨by omega, rfl, ?_, by simp [minFrame], ?_, ?_, ?_⟩
  · rw [show byteAt (rspFrame cfg c st d) 1 = BitVec.ofNat 8 (d.length + 6 - cfg.lenExcl.val) from rfl,
      BitVec.toNat_ofNat, Nat.mod_eq_of_lt (by omega)]
    omega
  · have := byteAt_append_right h [bcc h, TERM] 1
    rwa [hh] at this
  · have := byteAt_append_length h [bcc h, TERM]
    rw [hh] at this
    refine this.trans ?_
    rw [show d.length + 6 - 2 = h.length by omega, hf]
    simp [slice, byteAt]
  · simp [splitFrame, rspFrame, byteAt, slice]

/-- The outcomes of a frame of the expected command with a status (R152 steps 3 to 5). -/
theorem interpret_expected (cfg : Config) (k : RspKind) (c st : Byte) (d : List Byte) :
    interpret cfg ⟨c, some st, d⟩ c k =
      if st.toNat > 2 then .ok (.unknownStatus st, false)
      else match d with
        | [] => .error .malformedResponse
        | ch :: rest => knownOutcome cfg k st ch (ch :: rest) := by
  simp only [interpret, ne_eq, not_true_eq_false, if_false]
  split
  · rfl
  · cases d <;> rfl

/-- A frame of another command is never interpreted (R151). -/
theorem interpret_unexpected {cfg : Config} {k : RspKind} {pf : ParsedFrame} {c : Byte}
    (h : pf.command ≠ c) : interpret cfg pf c k = .error .malformedResponse := by
  simp [interpret, h]

/-- Which error kinds an interpretation can end with, and that only a present tag can have the wrong
size (R175, R178). -/
theorem interpret_error_kinds {cfg : Config} {k : RspKind} {pf : ParsedFrame} {c : Byte} {e : ErrorKind}
    (h : interpret cfg pf c k = .error e) :
    e = .malformedResponse ∨ (k = .read ∧ e = .invalidLength) := by
  simp only [interpret] at h
  split at h
  · cases h; exact .inl rfl
  · split at h
    · cases h; exact .inl rfl
    · split at h
      · cases h
      · split at h
        · cases h; exact .inl rfl
        · cases k
          · simp only [knownOutcome] at h
            split at h
            · split at h
              · cases h
              · next hd =>
                cases h
                exact .inr ⟨rfl, ((decodeRecord_error_iff cfg _ _).1 hd).2⟩
            · split at h <;> cases h
          · simp only [knownOutcome] at h
            split at h
            · cases h
            · split at h <;> cases h

/-- The tag an outcome carries is the one its ports show (R150). -/
@[simp] theorem ResultPorts.withOutcome_outcome (r : ResultPorts) (o : RspOutcome) (w : Bool) :
    (r.withOutcome o w).outcome = o.tag := by cases o <;> rfl

@[simp] theorem ResultPorts.withOutcome_warn (r : ResultPorts) (o : RspOutcome) (w : Bool) :
    (r.withOutcome o w).warn = w := by cases o <;> rfl

@[simp] theorem ResultPorts.withOutcome_obuf (r : ResultPorts) (o : RspOutcome) (w : Bool) :
    (r.withOutcome o w).obuf = r.obuf := by cases o <;> rfl

@[simp] theorem ResultPorts.withOutcome_pData (r : ResultPorts) (o : RspOutcome) (w : Bool) :
    (r.withOutcome o w).pData = r.pData := by cases o <;> rfl

end Sys2Proof.Machine
end

