-- ==== Sys2Proof/Laws/PerInstr.lean ====
section
/-! SUPPORT. A family of laws with one lemma per instruction: the encoding of an instruction matches the
mask and the value that spec/opcode_table.json gives its row, in the row's mode (R67, R70). -/

namespace Sys2Proof.Laws.MatchesItsRow

/-- The mask, value and mode of a row; an operation's row has no mode and its `OP` code in bits 3..0, a
frame row has frame bytes 0 to 3 in bits 31..0, byte 0 uppermost. -/
structure Row where
  mode : Option Bool
  mask : BitVec 32
  value : BitVec 32

/-- The rows, written out from spec/opcode_table.json. -/
def row : Instr → Row
  | .bccCompute => ⟨none, 0xF, 0x1⟩
  | .bccVerify => ⟨none, 0xF, 0x2⟩
  | .recEncode => ⟨none, 0xF, 0x3⟩
  | .recDecode => ⟨none, 0xF, 0x4⟩
  | .frmBuild => ⟨none, 0xF, 0x5⟩
  | .frmParse => ⟨none, 0xF, 0x6⟩
  | .cmdRead => ⟨none, 0xF, 0x7⟩
  | .cmdWrite => ⟨none, 0xF, 0x8⟩
  | .rspRead => ⟨none, 0xF, 0x9⟩
  | .rspWrite => ⟨none, 0xF, 0xA⟩
  | .dfrInit => ⟨none, 0xF, 0xB⟩
  | .dfrFeed => ⟨none, 0xF, 0xC⟩
  | .readReq _ _ => ⟨some false, 0xFFFFFF00, 0xEF061100⟩
  | .writeReq _ _ => ⟨some false, 0xFFFFFF00, 0xEF761200⟩
  | .readRspOk _ _ => ⟨some true, 0xFF00FFFF, 0xEF001100⟩
  | .readRspAuth _ _ => ⟨some true, 0xFF00FFFF, 0xEF001101⟩
  | .readRspNotag _ _ => ⟨some true, 0xFF00FFFF, 0xEF001102⟩
  | .readRspUnknown _ _ _ => ⟨some true, 0xFF00FF00, 0xEF001100⟩
  | .writeRspOk _ _ => ⟨some true, 0xFF00FFFF, 0xEF001200⟩
  | .writeRspKeyerr _ _ => ⟨some true, 0xFF00FFFF, 0xEF001201⟩
  | .writeRspNotag _ _ => ⟨some true, 0xFF00FFFF, 0xEF001202⟩
  | .writeRspUnknown _ _ _ => ⟨some true, 0xFF00FF00, 0xEF001200⟩
  | .genericCmdFrame _ _ _ _ => ⟨some false, 0xFF000000, 0xEF000000⟩
  | .genericRspFrame _ _ _ _ => ⟨some true, 0xFF000000, 0xEF000000⟩

/-- The mode and the table word of what is issued; none for a byte sequence of fewer than four bytes. -/
def word : Fetch → Option (Option Bool × BitVec 32)
  | .op code => some (none, code.setWidth 32)
  | .frame es (b0 :: b1 :: b2 :: b3 :: _) => some (some es, b0 ++ b1 ++ b2 ++ b3)
  | .frame _ _ => none

/-- The encoding of the instruction matches its row. -/
def Statement (i : Instr) : Prop :=
  ∃ w, word (encode i) = some ((row i).mode, w) ∧ w &&& (row i).mask = (row i).value

/-- Masking a frame word byte by byte. -/
theorem and_bytes (a b c d m n o p : Byte) :
    (a ++ b ++ c ++ d : BitVec 32) &&& (m ++ n ++ o ++ p : BitVec 32) =
      ((a &&& m) ++ (b &&& n) ++ (c &&& o) ++ (d &&& p) : BitVec 32) := by
  rw [BitVec.and_append, BitVec.and_append, BitVec.and_append]

theorem mask_rrrx (a b c d : Byte) :
    (a ++ b ++ c ++ d : BitVec 32) &&& 0xFFFFFF00 = (a ++ b ++ c ++ 0#8 : BitVec 32) := by
  rw [show (0xFFFFFF00 : BitVec 32) = 255#8 ++ 255#8 ++ 255#8 ++ 0#8 from rfl, and_bytes,
    show 255#8 = BitVec.allOnes 8 from rfl]
  simp only [BitVec.and_allOnes, BitVec.and_zero]

theorem mask_rxrr (a b c d : Byte) :
    (a ++ b ++ c ++ d : BitVec 32) &&& 0xFF00FFFF = (a ++ 0#8 ++ c ++ d : BitVec 32) := by
  rw [show (0xFF00FFFF : BitVec 32) = 255#8 ++ 0#8 ++ 255#8 ++ 255#8 from rfl, and_bytes,
    show 255#8 = BitVec.allOnes 8 from rfl]
  simp only [BitVec.and_allOnes, BitVec.and_zero]

theorem mask_rxrx (a b c d : Byte) :
    (a ++ b ++ c ++ d : BitVec 32) &&& 0xFF00FF00 = (a ++ 0#8 ++ c ++ 0#8 : BitVec 32) := by
  rw [show (0xFF00FF00 : BitVec 32) = 255#8 ++ 0#8 ++ 255#8 ++ 0#8 from rfl, and_bytes,
    show 255#8 = BitVec.allOnes 8 from rfl]
  simp only [BitVec.and_allOnes, BitVec.and_zero]

theorem mask_rxxx (a b c d : Byte) :
    (a ++ b ++ c ++ d : BitVec 32) &&& 0xFF000000 = (a ++ 0#8 ++ 0#8 ++ 0#8 : BitVec 32) := by
  rw [show (0xFF000000 : BitVec 32) = 255#8 ++ 0#8 ++ 0#8 ++ 0#8 from rfl, and_bytes,
    show 255#8 = BitVec.allOnes 8 from rfl]
  simp only [BitVec.and_allOnes, BitVec.and_zero]

theorem bccCompute : Statement .bccCompute := ⟨_, rfl, rfl⟩
theorem bccVerify : Statement .bccVerify := ⟨_, rfl, rfl⟩
theorem recEncode : Statement .recEncode := ⟨_, rfl, rfl⟩
theorem recDecode : Statement .recDecode := ⟨_, rfl, rfl⟩
theorem frmBuild : Statement .frmBuild := ⟨_, rfl, rfl⟩
theorem frmParse : Statement .frmParse := ⟨_, rfl, rfl⟩
theorem cmdRead : Statement .cmdRead := ⟨_, rfl, rfl⟩
theorem cmdWrite : Statement .cmdWrite := ⟨_, rfl, rfl⟩
theorem rspRead : Statement .rspRead := ⟨_, rfl, rfl⟩
theorem rspWrite : Statement .rspWrite := ⟨_, rfl, rfl⟩
theorem dfrInit : Statement .dfrInit := ⟨_, rfl, rfl⟩
theorem dfrFeed : Statement .dfrFeed := ⟨_, rfl, rfl⟩
theorem readReq (ch : Byte) (t : List Byte) : Statement (.readReq ch t) := ⟨_, rfl, mask_rrrx _ _ _ _⟩
theorem writeReq (ch : Byte) (t : List Byte) : Statement (.writeReq ch t) := ⟨_, rfl, mask_rrrx _ _ _ _⟩
theorem readRspOk (l : Byte) (t : List Byte) : Statement (.readRspOk l t) := ⟨_, rfl, mask_rxrr _ _ _ _⟩
theorem readRspAuth (l : Byte) (t : List Byte) : Statement (.readRspAuth l t) :=
  ⟨_, rfl, mask_rxrr _ _ _ _⟩
theorem readRspNotag (l : Byte) (t : List Byte) : Statement (.readRspNotag l t) :=
  ⟨_, rfl, mask_rxrr _ _ _ _⟩
theorem readRspUnknown (l s : Byte) (t : List Byte) : Statement (.readRspUnknown l s t) :=
  ⟨_, rfl, mask_rxrx _ _ _ _⟩
theorem writeRspOk (l : Byte) (t : List Byte) : Statement (.writeRspOk l t) :=
  ⟨_, rfl, mask_rxrr _ _ _ _⟩
theorem writeRspKeyerr (l : Byte) (t : List Byte) : Statement (.writeRspKeyerr l t) :=
  ⟨_, rfl, mask_rxrr _ _ _ _⟩
theorem writeRspNotag (l : Byte) (t : List Byte) : Statement (.writeRspNotag l t) :=
  ⟨_, rfl, mask_rxrr _ _ _ _⟩
theorem writeRspUnknown (l s : Byte) (t : List Byte) : Statement (.writeRspUnknown l s t) :=
  ⟨_, rfl, mask_rxrx _ _ _ _⟩
theorem genericCmdFrame (l c d : Byte) (t : List Byte) : Statement (.genericCmdFrame l c d t) :=
  ⟨_, rfl, mask_rxxx _ _ _ _⟩
theorem genericRspFrame (l c s : Byte) (t : List Byte) : Statement (.genericRspFrame l c s t) :=
  ⟨_, rfl, mask_rxxx _ _ _ _⟩

end Sys2Proof.Laws.MatchesItsRow
end

