-- ==== Sys2Proof/Tests/Slice0.lean ====
section
/-! SUPPORT. Tests: ill-formed terms, written-out words, one step per case on values of
spec/95_test_vectors.md (named V…, S…, T… there), and a witness for the hypotheses of every obligation
that has some. -/

namespace Sys2Proof.Tests

open Sys2Proof.Machine

/-! ## Helpers -/

/-- The next state of an outcome. -/
def after : Host.Outcome State Fault Refusal → Option State
  | .next t => some t
  | .fault _ => none
  | .refused _ => none

/-- The refusal of an outcome. -/
def why : Host.Outcome State Fault Refusal → Option Refusal
  | .next _ => none
  | .fault _ => none
  | .refused r => some r

/-- After power-on, with bytes on `IBUF`. -/
def withBytes (b : List Byte) : State :=
  { State.reset with ops := { OperandPorts.reset with ibuf := b } }

/-- As `withBytes`, and a command byte or mode. -/
def withCmd (c : Byte) (b : List Byte) : State :=
  { State.reset with ops := { OperandPorts.reset with cmdIn := c, ibuf := b } }

def withMode (es : Bool) (b : List Byte) : State :=
  { State.reset with ops := { OperandPorts.reset with esIn := es, ibuf := b } }

/-- After power-on, with a channel and a record. -/
def withRecord (ch : Int) (r : RecordOperand) : State :=
  { State.reset with ops := { OperandPorts.reset with chanIn := ch, record := r } }

/-- The record of V20. -/
def rec20 : RecordOperand :=
  { version := 1000, manufacturer := [0x4D, 0x49, 0x4E, 0x47, 0x44, 0x41], material := [0x50, 0x4C, 0x41],
    color := [0x42, 0x6C, 0x61, 0x63, 0x6B], diameter := 1750, weight := 1000, printTemp := 210,
    bedTemp := 60, density := 1240 }

/-- V23: a weight that does not fit. -/
def rec23 : RecordOperand := { RecordOperand.reset with weight := 65536 }

/-- A deframer in a session of mode `es` that has received the bytes `got` of a frame. -/
def fed (es : Bool) (got : List Byte) (rx : Byte) : State :=
  { State.reset with
    ops := { OperandPorts.reset with rx := rx }
    df := { state := match got with
              | [] => .awaitingHeader
              | [_] => .awaitingLength
              | _ => .awaitingBody
            es := es, len := got.getD 1 0, cnt := got.length, buf := (List.range got.length).zip got,
            inited := true } }

/-- Scenario 3, a response: no tag on channel 1. -/
def s3 : List Byte := [0xEF, 0x07, 0x11, 0x02, 0x01, 0x05, 0xFE]

/-- Scenario 1, a command: read channel 1. -/
def s1 : List Byte := [0xEF, 0x06, 0x11, 0x01, 0x06, 0xFE]

/-! ## Ill-formed terms (R67): the rows whose status or prefix an earlier row takes -/

theorem test_wf_readRspUnknown_ok : (Instr.readRspUnknown 0x07 0x00 []).wellFormed = false := by decide
theorem test_wf_readRspUnknown_auth : (Instr.readRspUnknown 0x07 0x01 []).wellFormed = false := by decide
theorem test_wf_readRspUnknown_notag : (Instr.readRspUnknown 0x07 0x02 []).wellFormed = false := by decide
theorem test_wf_writeRspUnknown_ok : (Instr.writeRspUnknown 0x07 0x00 []).wellFormed = false := by decide
theorem test_wf_writeRspUnknown_keyerr : (Instr.writeRspUnknown 0x07 0x01 []).wellFormed = false := by decide
theorem test_wf_writeRspUnknown_notag : (Instr.writeRspUnknown 0x07 0x02 []).wellFormed = false := by decide
theorem test_wf_genericCmd_read : (Instr.genericCmdFrame 0x06 0x11 0x01 []).wellFormed = false := by decide
theorem test_wf_genericCmd_write : (Instr.genericCmdFrame 0x76 0x12 0x01 []).wellFormed = false := by decide
theorem test_wf_genericRsp_read : (Instr.genericRspFrame 0x07 0x11 0x01 []).wellFormed = false := by decide
theorem test_wf_genericRsp_write : (Instr.genericRspFrame 0x07 0x12 0x01 []).wellFormed = false := by decide

/-! ## Written-out words, one per constructor (R64, R67, R70), and rejections -/

theorem test_word_bccCompute : decodeTableWord 8 0x1 = some .bccCompute := by decide
theorem test_word_bccVerify : decodeTableWord 8 0x2 = some .bccVerify := by decide
theorem test_word_recEncode : decodeTableWord 8 0x3 = some .recEncode := by decide
theorem test_word_recDecode : decodeTableWord 8 0x4 = some .recDecode := by decide
theorem test_word_frmBuild : decodeTableWord 8 0x5 = some .frmBuild := by decide
theorem test_word_frmParse : decodeTableWord 8 0x6 = some .frmParse := by decide
theorem test_word_cmdRead : decodeTableWord 8 0x7 = some .cmdRead := by decide
theorem test_word_cmdWrite : decodeTableWord 8 0x8 = some .cmdWrite := by decide
theorem test_word_rspRead : decodeTableWord 8 0x9 = some .rspRead := by decide
theorem test_word_rspWrite : decodeTableWord 8 0xA = some .rspWrite := by decide
theorem test_word_dfrInit : decodeTableWord 8 0xB = some .dfrInit := by decide
theorem test_word_dfrFeed : decodeTableWord 8 0xC = some .dfrFeed := by decide
theorem test_word_unassigned :
    [0x0, 0xD, 0xE, 0xF].map (decodeTableWord 8) = [none, none, none, none] := by decide

theorem test_word_readReq : decodeTableWord 32 0xEF061103 = some (.readReq 0x03 [0x00, 0x00]) := by decide
theorem test_word_readRspOk : decodeTableWord 32 0xEF061100 = some (.readReq 0x00 [0x00, 0x00]) ∧
    decodeTableWord 32 0xEF071100 = some (.readRspOk 0x07 [0x00, 0x00, 0x00]) := by decide
theorem test_word_readRspAuth :
    decode (.frame true [0xEF, 0x07, 0x11, 0x01, 0x04, 0x03, 0xFE]) =
      .ok (.readRspAuth 0x07 [0x04, 0x03, 0xFE]) := by rfl
theorem test_word_readRspNotag : decode (.frame true s3) = .ok (.readRspNotag 0x07 [0x01, 0x05, 0xFE]) := by
  rfl
theorem test_word_readRspUnknown :
    decode (.frame true [0xEF, 0x06, 0x11, 0x03, 0x04, 0xFE]) = .ok (.readRspUnknown 0x06 0x03 [0x04, 0xFE]) := by
  rfl
theorem test_word_writeReq :
    decode (.frame false ([0xEF, 0x76, 0x12, 0x00] ++ rep 0x00 112 ++ [0x74, 0xFE])) =
      .ok (.writeReq 0x00 (rep 0x00 112 ++ [0x74, 0xFE])) := by rfl
theorem test_word_writeRspOk :
    decode (.frame true [0xEF, 0x07, 0x12, 0x00, 0x03, 0x06, 0xFE]) =
      .ok (.writeRspOk 0x07 [0x03, 0x06, 0xFE]) := by rfl
theorem test_word_writeRspKeyerr :
    decode (.frame true [0xEF, 0x07, 0x12, 0x01, 0x03, 0x07, 0xFE]) =
      .ok (.writeRspKeyerr 0x07 [0x03, 0x07, 0xFE]) := by rfl
theorem test_word_writeRspNotag :
    decode (.frame true [0xEF, 0x07, 0x12, 0x02, 0x01, 0x06, 0xFE]) =
      .ok (.writeRspNotag 0x07 [0x01, 0x06, 0xFE]) := by rfl
theorem test_word_writeRspUnknown :
    decode (.frame true [0xEF, 0x07, 0x12, 0x09, 0x03, 0x0F, 0xFE]) =
      .ok (.writeRspUnknown 0x07 0x09 [0x03, 0x0F, 0xFE]) := by rfl
theorem test_word_genericCmdFrame :
    decode (.frame false [0xEF, 0x08, 0x99, 0x01, 0x02, 0x03, 0x81, 0xFE]) =
      .ok (.genericCmdFrame 0x08 0x99 0x01 [0x02, 0x03, 0x81, 0xFE]) := by rfl
theorem test_word_genericRspFrame :
    decode (.frame true [0xEF, 0x08, 0x99, 0x01, 0x02, 0x03, 0x81, 0xFE]) =
      .ok (.genericRspFrame 0x08 0x99 0x01 [0x02, 0x03, 0x81, 0xFE]) := by rfl
theorem test_word_wrong_header :
    decode (.frame true [0xEE, 0x06, 0x11, 0x01]) = .error (.noFrameRow [0xEE, 0x06, 0x11, 0x01]) := by rfl
theorem test_word_too_short :
    decode (.frame true [0xEF, 0x05, 0x11]) = .error (.noFrameRow [0xEF, 0x05, 0x11]) := by rfl

/-! ## One step -/

/-- V1 -/
theorem test_bccCompute_V1 :
    (after (exec .bccCompute (withBytes [0xEF, 0x06, 0x11, 0x01]))).map (·.res.bccOut) = some 0x06 := by decide
/-- V5 -/
theorem test_bccCompute_V5 :
    (after (exec .bccCompute (withBytes [0x00]))).map (·.res.bccOut) = some 0xFF := by decide
/-- V16 -/
theorem test_bccVerify_true :
    (after (exec .bccVerify ((withBytes [0xEF, 0x06, 0x11, 0x01]).load (.claim 0x06)))).map
      (fun t => (t.res.okBit, t.res.err)) = some (true, none) := by decide
/-- S6: a wrong claim is a false result and no error. -/
theorem test_bccVerify_false :
    (after (exec .bccVerify ((withBytes [0xEF, 0x06, 0x11, 0x01]).load (.claim 0x07)))).map
      (fun t => (t.res.okBit, t.res.err)) = some (false, none) := by decide
/-- V20, `REC_ENDIAN = big`: the first bytes and the numbers at 66 to 75. -/
theorem test_recEncode_V20 :
    (after (exec .recEncode (withRecord 0 rec20))).map
      (fun t => (t.res.obuf.length, slice t.res.obuf 0 9, slice t.res.obuf 66 11)) =
      some (112, [0x03, 0xE8, 0x4D, 0x49, 0x4E, 0x47, 0x44, 0x41, 0x00],
        [0x06, 0xD6, 0x03, 0xE8, 0x00, 0xD2, 0x00, 0x3C, 0x04, 0xD8, 0x00]) := by decide
/-- V23 -/
theorem test_recEncode_V23 :
    (after (exec .recEncode (withRecord 0 rec23))).map (fun t => (t.res.err, t.res.held)) =
      some (some .fieldOverflow, [.err]) := by decide
/-- V35 -/
theorem test_recDecode_V35 :
    (after (exec .recDecode (withBytes ([0x12, 0x34, 0x41, 0x42] ++ rep 0x20 14 ++ rep 0x00 58 ++ [0xAA] ++
      rep 0x00 34 ++ [0x55])))).map
      (fun t => (t.res.dRec.version, t.res.dRec.manufacturer, t.res.dRec.density, t.res.warn)) =
      some (4660, [0x41, 0x42], 0, false) := by decide +kernel
/-- V32 and V30 -/
theorem test_recDecode_sizes :
    (after (exec .recDecode (withBytes (rep 0x00 113)))).map (fun t => (t.res.warn, t.res.err)) =
      some (true, none) ∧
    (after (exec .recDecode (withBytes (rep 0x00 111)))).map (·.res.err) = some (some .invalidLength) := by
  decide +kernel
/-- V40b -/
theorem test_frmBuild_V40b :
    (after (exec .frmBuild (withCmd 0x00 [0xEF, 0xFE]))).map (·.res.obuf) =
      some [0xEF, 0x07, 0x00, 0xEF, 0xFE, 0x06, 0xFE] := by decide
/-- V40e -/
theorem test_frmBuild_V40e :
    (after (exec .frmBuild (withCmd 0x12 (rep 0xAB 251)))).map (·.res.err) =
      some (some .payloadTooLarge) := by decide +kernel
/-- V79: S1 read as a response. -/
theorem test_frmParse_V79 :
    (after (exec .frmParse (withMode true s1))).map
      (fun t => (t.res.pCmd, t.res.pStaValid, t.res.pSta, t.res.pData)) =
      some (0x11, true, 0x01, []) := by decide
/-- V71: the terminator is judged before the checksum. -/
theorem test_frmParse_V71 :
    (after (exec .frmParse (withBytes [0xEF, 0x06, 0x11, 0x01, 0x07, 0xFF]))).map (·.res.err) =
      some (some .malformedResponse) := by decide
/-- V43 -/
theorem test_cmdRead_V43 :
    (after (exec .cmdRead (withRecord 7 rec20))).map (·.res.obuf) =
      some [0xEF, 0x06, 0x11, 0x07, 0x00, 0xFE] := by decide
/-- V44 -/
theorem test_cmdRead_V44 :
    [8, -1, 255, 256].map (fun ch => (after (exec .cmdRead (withRecord ch rec20))).map (·.res.err)) =
      List.replicate 4 (some (some .invalidChannel)) := by decide
/-- V41 -/
theorem test_cmdWrite_V41 :
    (after (exec .cmdWrite (withRecord 1 rec20))).map
      (fun t => (t.res.obuf.length, slice t.res.obuf 0 4, slice t.res.obuf 116 2)) =
      some (118, [0xEF, 0x76, 0x12, 0x01], [0x85, 0xFE]) := by decide +kernel
/-- V46 and V47: the channel is checked first. -/
theorem test_cmdWrite_errors :
    (after (exec .cmdWrite (withRecord 8 rec23))).map (·.res.err) = some (some .invalidChannel) ∧
    (after (exec .cmdWrite (withRecord 1 rec23))).map (·.res.err) = some (some .fieldOverflow) := by decide
/-- V100 -/
theorem test_rspRead_V100 :
    (after (exec .rspRead (withBytes [0xEF, 0x08, 0x11, 0x02, 0x01, 0xAA, 0xA0, 0xFE]))).map
      (fun t => (t.res.outcome, t.res.oChan, t.res.warn)) = some (.tagAbsent, 0x01, true) := by decide
/-- V93 -/
theorem test_rspRead_V93 :
    (after (exec .rspRead (withBytes [0xEF, 0x07, 0x11, 0x00, 0x01, 0x07, 0xFE]))).map
      (·.res.err) = some (some .invalidLength) := by decide
/-- V103 -/
theorem test_rspWrite_V103 :
    (after (exec .rspWrite (withBytes [0xEF, 0x07, 0x12, 0x01, 0x03, 0x07, 0xFE]))).map
      (fun t => (t.res.outcome, t.res.oChan)) = some (.keyError, 0x03) := by decide
/-- V106 -/
theorem test_rspWrite_V106 :
    (after (exec .rspWrite (withBytes [0xEF, 0x07, 0x11, 0x00, 0x03, 0x05, 0xFE]))).map
      (·.res.err) = some (some .malformedResponse) := by decide
/-- T14: a second `DFR.INIT` forgets the bytes received. -/
theorem test_dfrInit_T14 :
    (after (exec .dfrInit ((fed true [0xEF, 0x07, 0x11] 0).load (.esIn true)))).map
      (fun t => (t.df.state, t.df.cnt, t.df.es, t.df.inited)) =
      some (.awaitingHeader, 0, true, true) := by decide
/-- T1, last byte -/
theorem test_dfrFeed_T1 :
    (after (exec .dfrFeed (fed true (s3.take 6) 0xFE))).map
      (fun t => (t.res.evt, t.res.pSta, t.res.pData, t.df.state, t.df.cnt)) =
      some (.frame, 0x02, [0x01], .awaitingHeader, 0) := by decide
/-- T5, seventh byte -/
theorem test_dfrFeed_T5 :
    (after (exec .dfrFeed (fed true [0xEF, 0x07, 0x11, 0x02, 0x01, 0x04] 0xFE))).map
      (fun t => (t.res.evt, t.res.err, t.df.state, t.df.cnt)) =
      some (.error, some .checksumMismatch, .awaitingHeader, 0) := by decide
/-- S1 -/
theorem test_readReq_S1 :
    (after (exec (.readReq 0x01 [0x06, 0xFE]) State.reset)).map
      (fun t => (t.res.pCmd, t.res.pStaValid, t.res.pData, t.res.err)) =
      some (0x11, false, [0x01], none) := by decide
/-- V45 as received bytes -/
theorem test_writeReq_V45 :
    (after (exec (.writeReq 0x00 (rep 0x00 112 ++ [0x74, 0xFE])) State.reset)).map
      (fun t => (t.res.pCmd, t.res.pData.length, t.res.err)) = some (0x12, 113, none) := by decide +kernel
/-- S2 with 112 bytes 0x00 -/
theorem test_readRspOk_S2 :
    (after (exec (.readRspOk 0x77 (0x01 :: rep 0x00 112 ++ [0x77, 0xFE])) State.reset)).map
      (fun t => (t.res.outcome, t.res.oChan, t.res.dRec, t.res.warn)) =
      some (.tagPresent, 0x01, TagRecord.reset, false) := by decide +kernel
/-- V98 -/
theorem test_readRspAuth_V98 :
    (after (exec (.readRspAuth 0x07 [0x04, 0x03, 0xFE]) State.reset)).map
      (fun t => (t.res.outcome, t.res.oChan)) = some (.authFailure, 0x04) := by decide
/-- S3 -/
theorem test_readRspNotag_S3 :
    (after (exec (.readRspNotag 0x07 [0x01, 0x05, 0xFE]) State.reset)).map
      (fun t => (t.res.outcome, t.res.oChan)) = some (.tagAbsent, 0x01) := by decide
/-- V96 -/
theorem test_readRspUnknown_V96 :
    (after (exec (.readRspUnknown 0x06 0x03 [0x04, 0xFE]) State.reset)).map
      (fun t => (t.res.outcome, t.res.oSta, t.res.warn)) = some (.unknownStatus, 0x03, false) := by decide
/-- V102 -/
theorem test_writeRspOk_V102 :
    (after (exec (.writeRspOk 0x07 [0x03, 0x06, 0xFE]) State.reset)).map
      (fun t => (t.res.outcome, t.res.oChan)) = some (.writeOk, 0x03) := by decide
/-- V103 -/
theorem test_writeRspKeyerr_V103 :
    (after (exec (.writeRspKeyerr 0x07 [0x03, 0x07, 0xFE]) State.reset)).map
      (fun t => (t.res.outcome, t.res.oChan)) = some (.keyError, 0x03) := by decide
/-- S4 -/
theorem test_writeRspNotag_S4 :
    (after (exec (.writeRspNotag 0x07 [0x01, 0x06, 0xFE]) State.reset)).map
      (fun t => (t.res.outcome, t.res.oChan)) = some (.tagAbsent, 0x01) := by decide
/-- V105 -/
theorem test_writeRspUnknown_V105 :
    (after (exec (.writeRspUnknown 0x07 0x09 [0x03, 0x0F, 0xFE]) State.reset)).map
      (fun t => (t.res.outcome, t.res.oSta)) = some (.unknownStatus, 0x09) := by decide
/-- V82 -/
theorem test_genericCmdFrame_V82 :
    (after (exec (.genericCmdFrame 0x08 0x99 0x01 [0x02, 0x03, 0x81, 0xFE]) State.reset)).map
      (fun t => (t.res.pCmd, t.res.pData)) = some (0x99, [0x01, 0x02, 0x03]) := by decide
/-- The bytes of V82 with a status expected (R113). -/
theorem test_genericRspFrame_V82 :
    (after (exec (.genericRspFrame 0x08 0x99 0x01 [0x02, 0x03, 0x81, 0xFE]) State.reset)).map
      (fun t => (t.res.pCmd, t.res.pSta, t.res.pData)) = some (0x99, 0x01, [0x02, 0x03]) := by decide
/-- A table word placed where `step` fetches runs as the next step: P1 step 1 with channel 0. -/
theorem test_step_cmdRead :
    (after (step (State.reset.withFetchWord 8 0x7))).map (fun t => (t.res.obuf, t.ops.op, t.caller)) =
      some ([0xEF, 0x06, 0x11, 0x00, 0x07, 0xFE], 0x7, []) := by decide

/-- After power-on a result port can be read; after an operation, one it did not write cannot (R24). -/
theorem test_read_after_reset :
    (after (step { State.reset with caller := [.read (.port .bccOut)] })).map (·.reads) = some [.byte 0x00] := by
  decide
theorem test_read_after_operation :
    (after (exec .cmdRead { State.reset with caller := [.read (.port .bccOut)] })).bind
      (fun t => why (step t)) = some (.portHoldsNoValue .bccOut) := by decide

/-! ## Witnesses: the hypotheses of each obligation, met together, at the boundaries of each clause -/

theorem test_hyp_DecodeOfEncode :
    (Instr.readRspUnknown 0x07 0x03 []).wellFormed = true ∧ (Instr.writeRspUnknown 0x07 0xFF []).wellFormed = true ∧
    (Instr.genericCmdFrame 0x07 0x11 0x00 []).wellFormed = true ∧
    (Instr.genericRspFrame 0x06 0x13 0x00 []).wellFormed = true := by decide
theorem test_hyp_EncodeOfDecode : decode (.op 0xC#4) = .ok .dfrFeed := rfl
theorem test_hyp_UnassignedOpCodes :
    ({ State.reset with caller := [.issue (.op 0x0#4)] } : State).caller = .issue (.op 0x0#4) :: [] := rfl
theorem test_hyp_StepRuns :
    ({ State.reset with caller := [.issue (.frame true s3)] } : State).caller = .issue (.frame true s3) :: [] ∧
    decode (.frame true s3) = .ok (.readRspNotag 0x07 [0x01, 0x05, 0xFE]) := ⟨rfl, rfl⟩

/-- An idle state, one about to load a port, one about to read a port that holds nothing, one about to
read `ERR`, and one about to read `DF.STATE`. -/
theorem test_hyp_IdleLoadAndRead :
    State.reset.caller = [] ∧
    ({ State.reset with caller := [.load (.rx 0x01)] } : State).caller = .load (.rx 0x01) :: [] ∧
    (let s : State := { State.reset with
       caller := [.read (.port .obuf)], res := { ResultPorts.reset with held := [.err] } }
     s.caller = .read (.port .obuf) :: [] ∧ .obuf ∉ s.res.held) ∧
    (let s : State := { State.reset with
       caller := [.read (.port .err)], res := { ResultPorts.reset with held := [.err] } }
     s.caller = .read (.port .err) :: [] ∧ .err ∈ s.res.held) ∧
    ({ State.reset with caller := [.read .dfState] } : State).caller = .read .dfState :: [] := by decide

theorem test_hyp_Bcc : (withBytes [0x00]).ops.ibuf ≠ [] := by decide
theorem test_hyp_EmptyChecksumInput : (withBytes []).ops.ibuf = [] := rfl
theorem test_hyp_BccStreams : ([0xEF] : List Byte) ≠ [] ∧ ([0xEF, 0x10, 0xFE] : List Byte).length = 3 := by
  decide

/-- A changed byte, a changed claim, another sequence of the same length, a reordering. -/
theorem test_hyp_BccDetection :
    ([0x01, 0x02] : List Byte) ≠ [] ∧ 1 < ([0x01, 0x02] : List Byte).length ∧
    (0x03 : Byte) ≠ byteAt [0x01, 0x02] 1 ∧ (0x00 : Byte) ≠ bcc [0x01, 0x02] ∧
    ([0x03, 0x04] : List Byte).length = ([0x01, 0x02] : List Byte).length ∧
    ([0x02, 0x01] : List Byte).Perm [0x01, 0x02] := by decide

/-- Both sides of 65535. -/
theorem test_hyp_RecEncode :
    ({ RecordOperand.reset with version := 65535, density := 65535 } : RecordOperand).Fits ∧ ¬ rec23.Fits := by
  decide
theorem test_hyp_RecordImage :
    encodeRecord Config.decided RecordOperand.reset = .ok (recordImage Config.decided RecordOperand.reset) := rfl
theorem test_hyp_RecDecode :
    112 ≤ (withBytes (rep 0x00 112)).ops.ibuf.length ∧ (withBytes (rep 0x00 111)).ops.ibuf.length < 112 := by
  decide +kernel
theorem test_hyp_RecordFields :
    decodeRecord Config.decided (rep 0x20 112) =
      .ok (recordOf Config.decided (rep 0x20 112), false) := by rfl
theorem test_hyp_DecodeIgnores :
    112 ≤ (rep 0x00 112).length ∧ 112 ≤ (rep 0x00 76 ++ rep 0xFF 37).length ∧
    (rep 0x00 112).take 76 = (rep 0x00 76 ++ rep 0xFF 37).take 76 := by decide +kernel
theorem test_hyp_DecodeOfEncoded : rec20.Fits := by decide
theorem test_hyp_EncodeOfDecoded : (rep 0x20 112).length = 112 := by decide +kernel

/-- The longest payload that fits, and one byte more. -/
theorem test_hyp_FrmBuild :
    (withCmd 0x12 (rep 0xAB 250)).ops.ibuf.length ≤ 250 + (withCmd 0x12 []).cfg.lenExcl.val ∧
    (withCmd 0x12 (rep 0xAB 251)).ops.ibuf.length > 250 + (withCmd 0x12 []).cfg.lenExcl.val ∧
    (after (exec .frmBuild (withCmd 0x12 (rep 0xAB 251)))).isSome = true := by decide +kernel

/-- Both modes, and an error. -/
theorem test_hyp_FrmParse :
    parseFrame Config.decided s1 false = .ok ⟨0x11, none, [0x01]⟩ ∧
    parseFrame Config.decided s3 true = .ok ⟨0x11, some 0x02, [0x01]⟩ ∧
    parseFrame Config.decided [] true = .error .incomplete ∧
    parseFrame Config.decided (s1.take 5) false = .error .incomplete ∧
    parseFrame Config.decided (s1 ++ [0x00]) false = .error .malformedResponse ∧
    parseFrame Config.decided [0xEF, 0x06, 0x11, 0x01, 0x07, 0xFE] false = .error .checksumMismatch :=
  ⟨rfl, rfl, rfl, rfl, rfl, rfl⟩
theorem test_hyp_ParseFrameErrorKinds : 6 = (byteAt s1 1).toNat + Config.decided.lenExcl.val := by decide
theorem test_hyp_ParseOfBuilt : (rep 0x00 252).length ≤ 250 + (2 : Fin 3).val := by decide +kernel

/-- Each place a byte of S3 can be changed at: header, length made smaller and larger, body, checksum,
terminator. -/
theorem test_hyp_OneByteCorruption :
    parseFrame Config.decided s3 true = .ok ⟨0x11, some 0x02, [0x01]⟩ ∧
    (∀ p ∈ [(0, (0x00 : Byte)), (1, 0x06), (1, 0x08), (2, 0x12), (5, 0x04), (6, 0xFF)],
      p.1 < s3.length ∧ p.2 ≠ byteAt s3 p.1) := ⟨rfl, by decide⟩

theorem test_hyp_FeedBeforeInit : State.reset.df.inited = false := rfl
theorem test_hyp_FeedInAwaitingHeader :
    (fed true [] 0xEF).df.inited = true ∧ (fed true [] 0xEF).df.state = .awaitingHeader ∧
    (fed true [] 0xEF).Inv := by decide

/-- The least length a response can have, and one less. -/
theorem test_hyp_FeedInAwaitingLength :
    (fed true [0xEF] 0x06).df.inited = true ∧ (fed true [0xEF] 0x06).df.state = .awaitingLength ∧
    (fed true [0xEF] 0x06).Inv ∧
    5 + (fed true [0xEF] 0x06).df.es.toNat ≤ (0x06 : Byte).toNat + (fed true [0xEF] 0x06).cfg.lenExcl.val ∧
    (0x05 : Byte).toNat + (fed true [0xEF] 0x05).cfg.lenExcl.val < 5 + (fed true [0xEF] 0x05).df.es.toNat := by
  decide

/-- The last byte of a frame and the one before it; the frame it ends parses, or does not. -/
theorem test_hyp_FeedInAwaitingBody :
    (fed true (s3.take 6) 0xFE).df.inited = true ∧ (fed true (s3.take 6) 0xFE).df.state = .awaitingBody ∧
    (fed true (s3.take 6) 0xFE).df.cnt + 1 =
      (fed true (s3.take 6) 0xFE).df.len.toNat + (fed true (s3.take 6) 0xFE).cfg.lenExcl.val ∧
    (fed true (s3.take 5) 0x05).df.cnt + 1 <
      (fed true (s3.take 5) 0x05).df.len.toNat + (fed true (s3.take 5) 0x05).cfg.lenExcl.val ∧
    parseFrame Config.decided s3 true = .ok ⟨0x11, some 0x02, [0x01]⟩ ∧
    parseFrame Config.decided (s3.take 6 ++ [0xFF]) true = .error .malformedResponse :=
  ⟨rfl, rfl, rfl, by decide, rfl, rfl⟩
theorem test_hyp_body_inv :
    (fed true (s3.take 6) 0xFE).df.cnt = 6 ∧ Memory.wf (fed true (s3.take 6) 0xFE).df.buf = true ∧
    Memory.readRange (fed true (s3.take 6) 0xFE).df.buf 0 6 = some (s3.take 6) := ⟨rfl, rfl, rfl⟩
theorem test_hyp_FeedInvBody : (fed true (s3.take 6) 0xFE).Inv ∧ (fed true (s3.take 5) 0x05).Inv :=
  ⟨by decide, by decide⟩

/-- Each of the three states stores where its clause says. -/
theorem test_hyp_DfrFeedFrame :
    (after (exec .dfrFeed (fed true [] 0xEF))).isSome = true ∧
    (after (exec .dfrFeed (fed true [] 0x41))).isSome = true ∧
    (after (exec .dfrFeed (fed true [0xEF] 0x06))).isSome = true ∧
    (after (exec .dfrFeed (fed true [0xEF] 0x05))).isSome = true ∧
    (after (exec .dfrFeed (fed true (s3.take 5) 0x05))).isSome = true := by decide

/-- A frame of the declared size, with a legal length, and one with a length below the minimum. -/
theorem test_hyp_DeframerAgrees :
    (fed true [] 0).Inv ∧ 2 ≤ s3.length ∧ byteAt s3 0 = 0xEF ∧
    s3.length = (byteAt s3 1).toNat + (fed true [] 0).cfg.lenExcl.val ∧ 5 + true.toNat ≤ s3.length ∧
    (let b : List Byte := [0xEF, 0x05, 0x11, 0x04, 0xFE]
     2 ≤ b.length ∧ byteAt b 0 = 0xEF ∧ b.length = (byteAt b 1).toNat + (fed true [] 0).cfg.lenExcl.val ∧
     b.length < 5 + true.toNat) := by decide
theorem test_hyp_StrayBytes : ∀ b ∈ ([0x00, 0xFE, 0x41] : List Byte), b ≠ 0xEF := by decide

/-- The first and the last channel, and the two next to them. -/
theorem test_hyp_Channel :
    (∀ c ∈ [(0 : Int), 7], 0 ≤ (withRecord c rec20).ops.chanIn ∧ (withRecord c rec20).ops.chanIn ≤ 7 ∧
      (withRecord c rec20).ops.record.Fits) ∧
    (∀ c ∈ [(-1 : Int), 8], (withRecord c rec20).ops.chanIn < 0 ∨ 7 < (withRecord c rec20).ops.chanIn) ∧
    0 ≤ (withRecord 0 rec23).ops.chanIn ∧ ¬ (withRecord 0 rec23).ops.record.Fits := by decide
theorem test_hyp_AllReadCommands :
    (withRecord 7 rec20).cfg.lenExcl = 0 ∧ (withRecord 7 rec20).ops.chanIn = ((7 : Nat) : Int) := by decide

/-- `CMD.WRITE` of a record that does not fit, and of one that does: both cases of the expansion. -/
theorem test_hyp_Composite :
    (after (exec .recEncode (withRecord 0 rec20))).map (·.res.err) = some none ∧
    (after (exec .recEncode (withRecord 0 rec23))).map (·.res.err) = some (some .fieldOverflow) ∧
    (after (exec .frmParse (withMode true s3))).map (·.res.err) = some none ∧
    (after (exec .frmParse (withMode true s1))).map (·.res.err) = some none ∧
    (after (exec .frmParse (withMode true []))).map (·.res.err) = some (some .incomplete) := by decide +kernel

/-- Both ends of an interpretation, for both parsers, and both ends of `REC.DECODE`. -/
theorem test_hyp_Composite_interpret :
    interpret Config.decided ⟨0x11, some 0x02, [0x01]⟩ 0x11 .read = .ok (.tagAbsent 0x01, false) ∧
    interpret Config.decided ⟨0x11, some 0x01, []⟩ 0x11 .read = .error .malformedResponse ∧
    interpret Config.decided ⟨0x12, some 0x09, [0x03]⟩ 0x12 .write = .ok (.unknownStatus 0x09, false) ∧
    interpret Config.decided ⟨0x11, some 0x00, [0x03]⟩ 0x12 .write = .error .malformedResponse :=
  ⟨rfl, rfl, rfl, rfl⟩
theorem test_hyp_Composite_recDecode :
    (after (exec .recDecode (withBytes (rep 0x00 112)))).map (·.res.err) = some none ∧
    (after (exec .recDecode (withBytes []))).map (·.res.err) = some (some .invalidLength) := by decide +kernel

/-- Read responses of every status class: an image of 112 bytes and one of 111, no data, an unknown
status, a refused key, no tag. -/
theorem test_hyp_RspRead :
    (withBytes s3).ops.ibuf = rspFrame Config.decided 0x11 0x02 [0x01] ∧
    (withBytes [0xEF, 0x07, 0x11, 0x01, 0x04, 0x03, 0xFE]).ops.ibuf = rspFrame Config.decided 0x11 0x01 [0x04] ∧
    (withBytes [0xEF, 0x06, 0x11, 0x03, 0x04, 0xFE]).ops.ibuf = rspFrame Config.decided 0x11 0x03 [] ∧
    (withBytes [0xEF, 0x06, 0x11, 0x00, 0x07, 0xFE]).ops.ibuf = rspFrame Config.decided 0x11 0x00 [] ∧
    (withBytes ([0xEF, 0x77, 0x11, 0x00, 0x01] ++ rep 0x00 112 ++ [0x77, 0xFE])).ops.ibuf =
      rspFrame Config.decided 0x11 0x00 (0x01 :: rep 0x00 112) ∧
    (withBytes ([0xEF, 0x76, 0x11, 0x00, 0x01] ++ rep 0x00 111 ++ [0x76, 0xFE])).ops.ibuf =
      rspFrame Config.decided 0x11 0x00 (0x01 :: rep 0x00 111) := by decide +kernel
theorem test_hyp_RspWrite :
    (withBytes [0xEF, 0x07, 0x12, 0x00, 0x03, 0x06, 0xFE]).ops.ibuf = rspFrame Config.decided 0x12 0x00 [0x03] ∧
    (withBytes [0xEF, 0x07, 0x12, 0x02, 0x01, 0x06, 0xFE]).ops.ibuf = rspFrame Config.decided 0x12 0x02 [0x01] ∧
    (withBytes [0xEF, 0x07, 0x12, 0x09, 0x03, 0x0F, 0xFE]).ops.ibuf = rspFrame Config.decided 0x12 0x09 [0x03] ∧
    (withBytes [0xEF, 0x06, 0x12, 0x00, 0x04, 0xFE]).ops.ibuf = rspFrame Config.decided 0x12 0x00 [] := by decide
theorem test_hyp_UnexpectedCommand :
    parseFrame Config.decided [0xEF, 0x07, 0x12, 0x00, 0x03, 0x06, 0xFE] true = .ok ⟨0x12, some 0x00, [0x03]⟩ ∧
    (0x12 : Byte) ≠ 0x11 ∧ parseFrame Config.decided s3 true = .ok ⟨0x11, some 0x02, [0x01]⟩ ∧
    (0x11 : Byte) ≠ (withBytes s3).cfg.writeAckCmd := ⟨rfl, by decide, rfl, by decide⟩
theorem test_hyp_FrameRows :
    State.reset.cfg.lenExcl = 0 ∧ State.reset.cfg.writeAckCmd = 0x12 ∧ (rep 0x00 112).length = 112 ∧
    2 < (0x03 : Byte).toNat ∧ (rep 0x00 249).length ≤ 249 := by decide +kernel
theorem test_hyp_GenericRows :
    buildFrame Config.decided 0x99 [0x01, 0x02, 0x03] =
      .ok (0xEF :: 0x08 :: 0x99 :: 0x01 :: [0x02, 0x03, 0x81, 0xFE]) ∧
    rspFrame Config.decided 0x99 0x01 [0x02, 0x03] =
      0xEF :: 0x08 :: 0x99 :: 0x01 :: [0x02, 0x03, 0x81, 0xFE] := ⟨rfl, rfl⟩
theorem test_hyp_EveryStep :
    State.reset.Inv ∧ (after (step (State.reset.withFetchWord 8 0xB))).isSome = true := by decide
theorem test_hyp_OneShot :
    Instr.cmdRead.isOneShot = true ∧ (after (exec .cmdRead State.reset)).isSome = true ∧
    State.reset.cfg = (fed true [0xEF] 0).cfg ∧ State.reset.ops = (fed true [0xEF] 0).ops := by decide

/-- An error of a one-shot operation and one of `DFR.FEED`. -/
theorem test_hyp_AnError :
    (after (exec .cmdRead (withRecord 8 rec20))).map (·.res.err) = some (some .invalidChannel) ∧
    (after (exec .dfrFeed (fed true [0xEF] 0x05))).map (fun t => (t.res.err, t.res.evt)) =
      some (some .malformedResponse, .error) := by decide

/-- What the decode clauses of the frame rows rule out: the two prefixes of R64, the two commands. -/
theorem test_hyp_GenericDecode :
    ¬ ((0x08 : Byte) = 0x06 ∧ (0x99 : Byte) = 0x11) ∧ ¬ ((0x08 : Byte) = 0x76 ∧ (0x99 : Byte) = 0x12) ∧
    (0x99 : Byte) ≠ 0x11 ∧ (0x99 : Byte) ≠ 0x12 := by decide

end Sys2Proof.Tests
end

section
/-! What a step can do, said once: the four actions of the caller (R10) and the three ends of an
instruction. From it: the step that runs the issued instruction (O5), and that the parameters stay (O60). -/

namespace Sys2Proof.Machine

/-! ## A step, by the caller's oldest action -/

theorem step_of_idle {s : State} (h : s.caller = []) : step s = .next s := by
  simp [step, h]

theorem step_of_pending {s : State} {a : CallerAct} {rest : List CallerAct}
    (h : s.caller = a :: rest) : step s = (s.popCaller rest).act a := by
  simp [step, h]

theorem State.issue_of_decode_ok {s : State} {f : Fetch} {i : Instr} (h : decode f = .ok i) :
    s.issue f = exec i (s.accept f) := by
  simp [State.issue, h]

theorem State.issue_of_decode_error {s : State} {f : Fetch} {e : DecodeError}
    (h : decode f = .error e) : s.issue f = .refused (refusalOf e) := by
  simp [State.issue, h]

theorem State.issue_next_iff {s t : State} {f : Fetch} :
    s.issue f = .next t ↔ ∃ i, decode f = .ok i ∧ exec i (s.accept f) = .next t := by
  cases hd : decode f with
  | ok i => simp [State.issue_of_decode_ok hd]
  | error e => simp [State.issue_of_decode_error hd]

theorem State.readBack_next_iff {s t : State} {g : ReadTarget} :
    s.readBack g = .next t ↔
      ∃ v, s.readTarget g = .ok v ∧ t = { s with reads := v :: s.reads } := by
  cases hr : s.readTarget g <;> simp [State.readBack, hr, eq_comm]

theorem step_of_issue {s : State} {f : Fetch} {rest : List CallerAct} {i : Instr}
    (hc : s.caller = .issue f :: rest) (hd : decode f = .ok i) :
    step s = exec i ((s.popCaller rest).accept f) :=
  (step_of_pending hc).trans (State.issue_of_decode_ok hd)

/-- Everything a step that answers a next state can do (R10, R11). -/
theorem step_next_cases {s t : State} (h : step s = .next t) :
    (s.caller = [] ∧ t = s) ∨
    (∃ w rest, s.caller = .load w :: rest ∧ t = (s.popCaller rest).load w) ∨
    (∃ f rest i, s.caller = .issue f :: rest ∧ decode f = .ok i ∧
      exec i ((s.popCaller rest).accept f) = .next t) ∨
    (∃ g rest v, s.caller = .read g :: rest ∧ (s.popCaller rest).readTarget g = .ok v ∧
      t = { s.popCaller rest with reads := v :: s.reads }) := by
  cases hc : s.caller with
  | nil =>
    rw [step_of_idle hc] at h
    cases h
    exact .inl ⟨rfl, rfl⟩
  | cons a rest =>
    rw [step_of_pending hc] at h
    cases a with
    | load w =>
      cases h
      exact .inr (.inl ⟨w, rest, rfl, rfl⟩)
    | issue f =>
      obtain ⟨i, hd, he⟩ := State.issue_next_iff.1 h
      exact .inr (.inr (.inl ⟨f, rest, i, rfl, hd, he⟩))
    | read g =>
      obtain ⟨v, hv, ht⟩ := State.readBack_next_iff.1 h
      exact .inr (.inr (.inr ⟨g, rest, v, rfl, hv, ht⟩))

/-! ## An instruction, by how it ends -/

/-- The state after a `DFR.INIT` (R121). -/
theorem execDfrInit_next {s t : State} (h : execDfrInit s = .next t) :
    t = { s with df := { s.df with
      es := s.ops.esIn, state := .awaitingHeader, cnt := 0, inited := true } }.finish s.res [] := by
  cases h
  rfl

theorem execBccCompute_next_iff {s t : State} :
    execBccCompute s = .next t ↔
      s.ilen ≠ 0 ∧ t = s.finish { s.res with bccOut := bcc s.ops.ibuf } [.bccOut] := by
  by_cases hl : s.ilen = 0 <;> simp [execBccCompute, hl, eq_comm]

theorem execBccVerify_next_iff {s t : State} :
    execBccVerify s = .next t ↔
      s.ilen ≠ 0 ∧ t = s.finish { s.res with okBit := okFlag s.ops.ibuf s.ops.claim } [.okBit] := by
  by_cases hl : s.ilen = 0 <;> simp [execBccVerify, hl, eq_comm]

/-- An instruction that answers a next state either settles a result, after a frame row has put its frame
on the operand ports, or is one of the two operations of the deframer (R19, R170). -/
theorem exec_next_cases {i : Instr} {s t : State} (h : exec i s = .next t) :
    (∃ ops r, t = { s with ops := ops }.settle r) ∨
    (i = .dfrInit ∧ execDfrInit s = .next t) ∨ (i = .dfrFeed ∧ execDfrFeed s = .next t) := by
  cases i with
  | bccCompute =>
    obtain ⟨-, rfl⟩ := execBccCompute_next_iff.1 h
    exact .inl ⟨s.ops, .ok (_, _), rfl⟩
  | bccVerify =>
    obtain ⟨-, rfl⟩ := execBccVerify_next_iff.1 h
    exact .inl ⟨s.ops, .ok (_, _), rfl⟩
  | dfrInit => exact .inr (.inl ⟨rfl, h⟩)
  | dfrFeed => exact .inr (.inr ⟨rfl, h⟩)
  | recEncode | recDecode | frmBuild | frmParse | cmdRead | cmdWrite | rspRead | rspWrite =>
    cases h
    exact .inl ⟨s.ops, _, rfl⟩
  | readReq _ _ | writeReq _ _ | readRspOk _ _ | readRspAuth _ _ | readRspNotag _ _
  | readRspUnknown _ _ _ | writeRspOk _ _ | writeRspKeyerr _ _ | writeRspNotag _ _
  | writeRspUnknown _ _ _ | genericCmdFrame _ _ _ _ | genericRspFrame _ _ _ _ =>
    cases h
    exact .inl ⟨_, _, rfl⟩

/-! ## The parameters through each of them (R7, R33; log 7) -/

section
variable (s : State)

@[simp] theorem State.settle_cfg (r : OpResult) : (s.settle r).cfg = s.cfg :=
  (s.settle_cases r).1

@[simp] theorem State.feedHeader_cfg : s.feedHeader.cfg = s.cfg := by
  unfold State.feedHeader
  split <;> rfl

@[simp] theorem State.feedLength_cfg : s.feedLength.cfg = s.cfg := by
  unfold State.feedLength
  split <;> rfl

@[simp] theorem State.storeBody_cfg : s.storeBody.cfg = s.cfg := rfl

@[simp] theorem State.endFrame_cfg (f : List Byte) : (s.endFrame f).cfg = s.cfg := by
  unfold State.endFrame
  dsimp only
  split <;> rfl

end

theorem execDfrFeed_cfg {s t : State} (h : execDfrFeed s = .next t) : t.cfg = s.cfg := by
  obtain ⟨-, ⟨-, rfl⟩ | ⟨-, rfl⟩ | ⟨-, -, ⟨-, rfl⟩ | ⟨-, f, -, rfl⟩⟩⟩ := execDfrFeed_cases h
  · exact s.feedHeader_cfg
  · exact s.feedLength_cfg
  · exact s.storeBody_cfg
  · exact s.storeBody.endFrame_cfg f

theorem exec_cfg {i : Instr} {s t : State} (h : exec i s = .next t) : t.cfg = s.cfg := by
  obtain ⟨ops, r, rfl⟩ | ⟨-, hInit⟩ | ⟨-, hFeed⟩ := exec_next_cases h
  · exact State.settle_cfg _ r
  · rw [execDfrInit_next hInit, State.finish_cfg]
  · exact execDfrFeed_cfg hFeed

theorem step_cfg {s t : State} (h : step s = .next t) : t.cfg = s.cfg := by
  obtain ⟨-, rfl⟩ | ⟨w, rest, -, rfl⟩ | ⟨f, rest, i, -, -, he⟩ | ⟨g, rest, v, -, -, rfl⟩ :=
    step_next_cases h
  · rfl
  · rfl
  · rw [exec_cfg he, State.accept_cfg, State.popCaller_cfg]
  · rfl

/-! ## The obligations -/

/-- Settles O60, from what each step can do (`step_next_cases`) and each instruction
(`exec_next_cases`). -/
theorem parametersNeverChange : Obligations.ParametersNeverChange := by
  intro s t h
  exact step_cfg h

/-- Settles O5: the state `accept` makes, written out for the two kinds of what is issued. -/
theorem stepRunsTheIssuedInstruction : Obligations.StepRunsTheIssuedInstruction := by
  intro s f rest i hc hd
  rw [step_of_issue hc hd]
  cases f with
  | op code => rfl
  | frame es bytes => rfl

end Sys2Proof.Machine
end

section
/-! SUPPORT. The one-shot operations seen from outside: what one computes from the parameters and its operand
ports alone (R19), what it then writes, and that a frame row is its operation run on the frame (log 6). -/

namespace Sys2Proof

/-- The operation that gives an instruction its meaning: a frame row's is the one its frame is handed to
(log 6), an operation's is itself. -/
def Instr.runs : Instr → Instr
  | .readReq _ _ | .writeReq _ _ | .genericCmdFrame _ _ _ _ | .genericRspFrame _ _ _ _ => .frmParse
  | .readRspOk _ _ | .readRspAuth _ _ | .readRspNotag _ _ | .readRspUnknown _ _ _ => .rspRead
  | .writeRspOk _ _ | .writeRspKeyerr _ _ | .writeRspNotag _ _ | .writeRspUnknown _ _ _ => .rspWrite
  | i => i

theorem Instr.runs_isOperation (i : Instr) : i.runs.isOperation = true := by cases i <;> rfl

theorem Instr.runs_isOneShot (i : Instr) : i.runs.isOneShot = i.isOneShot := by cases i <;> rfl

/-- An instruction is one-shot or one of the deframer's two operations (R19). -/
theorem Instr.oneShot_or_deframer (i : Instr) : i.isOneShot = true ∨ i = .dfrInit ∨ i = .dfrFeed := by
  cases i <;> simp [isOneShot]

end Sys2Proof

namespace Sys2Proof.Machine

theorem writablePorts_runs (i : Instr) : writablePorts i.runs = writablePorts i := by cases i <;> rfl

/-- The operand ports the operation of an instruction starts from: a frame row puts its frame, its mode and
the operation's code there first. -/
def OperandPorts.handOver (o : OperandPorts) (i : Instr) : OperandPorts :=
  match encode i, encode i.runs with
  | .frame es bytes, .op code => { o with ibuf := bytes, esIn := es, op := code }
  | _, _ => o

theorem OperandPorts.handOver_operation (o : OperandPorts) {i : Instr} (h : i.isOperation = true) :
    o.handOver i = o := by
  cases i with
  | bccCompute | bccVerify | recEncode | recDecode | frmBuild | frmParse | cmdRead | cmdWrite | rspRead
  | rspWrite | dfrInit | dfrFeed => rfl
  | readReq _ _ | writeReq _ _ | readRspOk _ _ | readRspAuth _ _ | readRspNotag _ _
  | readRspUnknown _ _ _ | writeRspOk _ _ | writeRspKeyerr _ _ | writeRspNotag _ _
  | writeRspUnknown _ _ _ | genericCmdFrame _ _ _ _ | genericRspFrame _ _ _ _ => cases h

theorem OperandPorts.handOver_frame (o : OperandPorts) (i : Instr) :
    { o.handOver i with ibuf := o.ibuf, esIn := o.esIn, op := o.op } = o := by
  unfold OperandPorts.handOver
  split <;> rfl

/-- A frame row is its operation run on the frame (log 6). -/
theorem exec_eq_exec_runs (i : Instr) (s : State) :
    exec i s = exec i.runs { s with ops := s.ops.handOver i } := by cases i <;> rfl

/-! ## What a one-shot operation writes -/

/-- The results of a one-shot operation, one constructor per group of ports written together (R14). -/
inductive Written where
  /-- `BCC_OUT` (R81) -/
  | checksum (v : Byte)
  /-- `OK` (R82) -/
  | verdict (v : Bool)
  /-- `OBUF` and `OLEN` (R96, R111, R141, R142) -/
  | built (f : List Byte)
  /-- `D.*` and `WARN` (R100) -/
  | decoded (d : TagRecord) (surplus : Bool)
  /-- `P.*` (R114) -/
  | parsed (pf : ParsedFrame)
  /-- `OUTCOME`, `WARN` and the ports of the outcome (R153, R154) -/
  | responded (o : RspOutcome) (surplus : Bool)

/-- The result ports with the results on them. -/
def Written.on (r : ResultPorts) : Written → ResultPorts
  | .checksum v => { r with bccOut := v }
  | .verdict v => { r with okBit := v }
  | .built f => { r with obuf := f }
  | .decoded d w => { r with dRec := d, warn := w }
  | .parsed pf => r.withParsed pf
  | .responded o w => r.withOutcome o w

/-- The ports written, without `ERR`. -/
def Written.ports : Written → List ResultPort
  | .checksum _ => [.bccOut]
  | .verdict _ => [.okBit]
  | .built _ => [.obuf, .olen]
  | .decoded _ _ => [.dRec, .warn]
  | .parsed pf => parsedPorts pf
  | .responded o _ => outcomePorts o

/-- The end of a one-shot operation that computed `a` (R170). -/
def State.conclude (s : State) (a : Except ErrorKind Written) : State :=
  s.settle (a.map fun w => (w.on s.res, w.ports))

/-- The ports that hold a value after it (R24). -/
def heldAfter : Except ErrorKind Written → List ResultPort
  | .ok w => .err :: w.ports
  | .error _ => [.err]

section
variable (s : State) (a : Except ErrorKind Written)

theorem State.conclude_ok (w : Written) : s.conclude (.ok w) = s.finish (w.on s.res) w.ports := rfl

theorem State.conclude_error (e : ErrorKind) : s.conclude (.error e) = s.raise e := rfl

@[simp] theorem State.conclude_cfg : (s.conclude a).cfg = s.cfg := by cases a <;> rfl
@[simp] theorem State.conclude_ops : (s.conclude a).ops = s.ops := by cases a <;> rfl
@[simp] theorem State.conclude_df : (s.conclude a).df = s.df := by cases a <;> rfl
@[simp] theorem State.conclude_caller : (s.conclude a).caller = s.caller := by cases a <;> rfl
@[simp] theorem State.conclude_reads : (s.conclude a).reads = s.reads := by cases a <;> rfl
@[simp] theorem State.conclude_held : (s.conclude a).res.held = heldAfter a := by cases a <;> rfl

theorem State.emitOp_eq_conclude (x : Except ErrorKind (List Byte)) :
    s.emitOp x = s.conclude (x.map .built) := by cases x <;> rfl

theorem State.parseOp_eq_conclude :
    s.parseOp = s.conclude ((parseFrame s.cfg s.ops.ibuf s.ops.esIn).map .parsed) := by
  cases h : parseFrame s.cfg s.ops.ibuf s.ops.esIn with
  | error e => exact State.parseOp_error h
  | ok pf => exact State.parseOp_ok h

theorem State.respondOp_eq_conclude (c : Byte) (k : RspKind) :
    s.respondOp c k =
      s.conclude ((parseResponse s.cfg s.ops.ibuf c k).map fun p => .responded p.1 p.2) := by
  cases h : parseResponse s.cfg s.ops.ibuf c k with
  | error e => exact State.respondOp_error h
  | ok p => exact State.respondOp_ok h

end

/-- `ERR` and which ports hold a value are all that the end of an operation adds to its results. -/
theorem ResultPorts.value_of_ended (r : ResultPorts) (e : Option ErrorKind) (ps : List ResultPort)
    {p : ResultPort} (h : p ≠ .err) :
    ({ r with err := e, held := ps } : ResultPorts).value p = r.value p := by
  cases p with
  | err => exact absurd rfl h
  | _ => rfl

theorem ResultPorts.value_withParsed (r : ResultPorts) (pf : ParsedFrame) (p : ResultPort) :
    (r.withParsed pf).value p =
      if p ∈ parsedPorts pf then (ResultPorts.reset.withParsed pf).value p else r.value p := by
  rcases pf with ⟨c, _ | st, d⟩ <;> cases p <;> rfl

theorem ResultPorts.value_withOutcome (r : ResultPorts) (o : RspOutcome) (w : Bool) (p : ResultPort) :
    (r.withOutcome o w).value p =
      if p ∈ outcomePorts o then (ResultPorts.reset.withOutcome o w).value p else r.value p := by
  cases o <;> cases p <;> rfl

/-- A port that is written carries what the results say, whatever it carried before; every other port
keeps its value (R14, R19). -/
theorem Written.value_on (w : Written) (r : ResultPorts) (p : ResultPort) :
    (w.on r).value p = if p ∈ w.ports then (w.on ResultPorts.reset).value p else r.value p := by
  cases w with
  | parsed pf => exact r.value_withParsed pf p
  | responded o x => exact r.value_withOutcome o x p
  | checksum _ | verdict _ | built _ | decoded _ _ => cases p <;> rfl

/-- After a one-shot operation a port that holds a value carries what the operation computed, and every
other port what it carried (R24). -/
theorem State.conclude_value (s : State) (a : Except ErrorKind Written) (p : ResultPort) :
    (s.conclude a).res.value p =
      if p ∈ heldAfter a then (State.reset.conclude a).res.value p else s.res.value p := by
  by_cases hp : p = .err
  · subst hp
    cases a <;> rfl
  · cases a with
    | error e => simp [State.conclude_error, heldAfter, ResultPorts.value_of_ended, hp]
    | ok w => simp [State.conclude_ok, heldAfter, ResultPorts.value_of_ended, hp, w.value_on s.res,
        State.reset]

theorem State.conclude_value_of_held {a : Except ErrorKind Written} {p : ResultPort}
    (h : p ∈ heldAfter a) (s₁ s₂ : State) : (s₁.conclude a).res.value p = (s₂.conclude a).res.value p := by
  rw [State.conclude_value s₁, State.conclude_value s₂, if_pos h, if_pos h]

/-! ## What a one-shot operation computes -/

/-- What a one-shot operation answers, from the parameters and its operand ports (R19); `none` on empty
checksum input (R85), and for what is no one-shot operation. -/
def answer (cfg : Config) (o : OperandPorts) : Instr → Option (Except ErrorKind Written)
  | .bccCompute => if o.ibuf.length = 0 then none else some (.ok (.checksum (bcc o.ibuf)))
  | .bccVerify => if o.ibuf.length = 0 then none else some (.ok (.verdict (okFlag o.ibuf o.claim)))
  | .recEncode => some ((encodeRecord cfg o.record).map .built)
  | .recDecode => some ((decodeRecord cfg o.ibuf).map fun p => .decoded p.1 p.2)
  | .frmBuild => some ((buildFrame cfg o.cmdIn o.ibuf).map .built)
  | .frmParse => some ((parseFrame cfg o.ibuf o.esIn).map .parsed)
  | .cmdRead => some ((readCommand cfg o.chanIn).map .built)
  | .cmdWrite => some ((writeCommand cfg o.chanIn o.record).map .built)
  | .rspRead => some ((parseResponse cfg o.ibuf CMD_READ .read).map fun p => .responded p.1 p.2)
  | .rspWrite => some ((parseResponse cfg o.ibuf cfg.writeAckCmd .write).map fun p => .responded p.1 p.2)
  | _ => none

/-- A one-shot operation ends as `answer` says, and is refused on the empty input for which that says nothing
(R19, R85). -/
theorem exec_operation {i : Instr} (s : State) (hs : i.isOneShot = true) (ho : i.isOperation = true) :
    exec i s = match answer s.cfg s.ops i with
      | some a => .next (s.conclude a)
      | none => .refused .emptyChecksumInput := by
  cases i with
  | bccCompute | bccVerify =>
    by_cases hl : s.ops.ibuf.length = 0 <;>
      simp [exec, execBccCompute, execBccVerify, State.ilen, answer, hl, State.conclude_ok, Written.on,
        Written.ports]
  | recEncode | frmBuild | cmdRead | cmdWrite => exact congrArg _ (s.emitOp_eq_conclude _)
  | recDecode =>
    cases h : decodeRecord s.cfg s.ops.ibuf <;>
      simp [exec, execRecDecode, answer, h, Except.map, State.conclude, Written.on, Written.ports]
  | frmParse => exact congrArg _ s.parseOp_eq_conclude
  | rspRead | rspWrite => exact congrArg _ (s.respondOp_eq_conclude _ _)
  | dfrInit | dfrFeed => cases hs
  | readReq _ _ | writeReq _ _ | readRspOk _ _ | readRspAuth _ _ | readRspNotag _ _
  | readRspUnknown _ _ _ | writeRspOk _ _ | writeRspKeyerr _ _ | writeRspNotag _ _
  | writeRspUnknown _ _ _ | genericCmdFrame _ _ _ _ | genericRspFrame _ _ _ _ => cases ho

/-- Everything a one-shot instruction that answers a next state can do (R19, R170; log 6). -/
theorem exec_oneShot_next_iff {i : Instr} {s t : State} (hs : i.isOneShot = true) :
    exec i s = .next t ↔
      ∃ a, answer s.cfg (s.ops.handOver i) i.runs = some a ∧
        t = ({ s with ops := s.ops.handOver i } : State).conclude a := by
  rw [exec_eq_exec_runs, exec_operation _ (i.runs_isOneShot.trans hs) i.runs_isOperation]
  cases h : answer s.cfg (s.ops.handOver i) i.runs <;> simp [eq_comm]

end Sys2Proof.Machine
end

section
/-! SUPPORT. What the answers of the one-shot operations have in common: the ports they write, the sizes of
their results (R14, R16, R30) and their error kinds (R171). -/

namespace Sys2Proof.Machine

/-! ## Sizes and kinds, one shared operation at a time -/

theorem exceptMap_eq_ok_iff {ε α β : Type} {f : α → β} {x : Except ε α} {y : β} :
    x.map f = .ok y ↔ ∃ a, x = .ok a ∧ f a = y := by
  cases x <;> simp [Except.map]

theorem exceptMap_eq_error_iff {ε α β : Type} {f : α → β} {x : Except ε α} {e : ε} :
    x.map f = .error e ↔ x = .error e := by
  cases x <;> simp [Except.map]

theorem strip_slice_length_le (b : List Byte) (off n : Nat) : (strip (slice b off n)).length ≤ n :=
  (List.rdropWhile_prefix isPad _).length_le.trans (List.length_take_le n _)

/-- The texts of a decoded record fit their fields (R16, R97). -/
abbrev TagRecord.InFields (d : TagRecord) : Prop :=
  d.manufacturer.length ≤ W_MANUF ∧ d.material.length ≤ W_MATERIAL ∧ d.color.length ≤ W_COLOR

theorem recordOf_inFields (cfg : Config) (b : List Byte) : (recordOf cfg b).InFields :=
  ⟨strip_slice_length_le b _ _, strip_slice_length_le b _ _, strip_slice_length_le b _ _⟩

theorem buildFrame_length_le {cfg : Config} {c : Byte} {p f : List Byte}
    (h : buildFrame cfg c p = .ok f) : f.length ≤ cfg.maxFrame := by
  obtain ⟨hp, rfl⟩ := (buildFrame_ok_iff cfg c p f).1 h
  simp only [List.length_append, List.length_cons, List.length_nil, Config.maxFrame]
  omega

theorem parseFrame_data_length_le {cfg : Config} {b : List Byte} {es : Bool} {pf : ParsedFrame}
    (h : parseFrame cfg b es = .ok pf) : pf.data.length ≤ cfg.maxPayload := by
  obtain ⟨-, -, hn, -, -, -, rfl⟩ := (parseFrame_ok_iff cfg b es pf).1 h
  have hd := splitFrame_data_length b b.length es
  have hb := (byteAt b 1).isLt
  simp only [Config.maxPayload]
  omega

theorem parsedPorts_subset (pf : ParsedFrame) : parsedPorts pf ⊆ writablePorts .frmParse := by
  rcases pf with ⟨c, _ | st, d⟩ <;> simp [parsedPorts, staValidFlag, writablePorts]

theorem readCommand_error {cfg : Config} {ch : Int} {e : ErrorKind}
    (h : readCommand cfg ch = .error e) : e = .invalidChannel := by
  by_cases hc : 0 ≤ ch ∧ ch ≤ 7
  · rw [readCommand_of_valid hc, buildFrame_error_iff] at h
    simp at h
  · rw [readCommand_of_invalid hc] at h
    exact (Except.error.inj h).symm

theorem writeCommand_error {cfg : Config} {ch : Int} {r : RecordOperand} {e : ErrorKind}
    (h : writeCommand cfg ch r = .error e) : e = .invalidChannel ∨ e = .fieldOverflow := by
  by_cases hc : 0 ≤ ch ∧ ch ≤ 7
  · by_cases hr : r.Fits
    · rw [writeCommand_of_fits hc hr, buildFrame_error_iff, List.length_cons, recordImage_length] at h
      omega
    · rw [writeCommand_of_overflow hc hr] at h
      exact .inr (Except.error.inj h).symm
  · rw [writeCommand_of_invalid hc] at h
    exact .inl (Except.error.inj h).symm

theorem readCommand_length_le {cfg : Config} {ch : Int} {f : List Byte}
    (h : readCommand cfg ch = .ok f) : f.length ≤ cfg.maxFrame := by
  by_cases hc : 0 ≤ ch ∧ ch ≤ 7
  · exact buildFrame_length_le (readCommand_of_valid hc ▸ h)
  · cases (readCommand_of_invalid hc).symm.trans h

theorem writeCommand_length_le {cfg : Config} {ch : Int} {r : RecordOperand} {f : List Byte}
    (h : writeCommand cfg ch r = .ok f) : f.length ≤ cfg.maxFrame := by
  by_cases hc : 0 ≤ ch ∧ ch ≤ 7
  · by_cases hr : r.Fits
    · exact buildFrame_length_le (writeCommand_of_fits hc hr ▸ h)
    · cases (writeCommand_of_overflow hc hr).symm.trans h
  · cases (writeCommand_of_invalid hc).symm.trans h

theorem encodeRecord_length_le {cfg : Config} {r : RecordOperand} {f : List Byte}
    (h : encodeRecord cfg r = .ok f) : f.length ≤ cfg.maxFrame := by
  obtain ⟨-, rfl⟩ := (encodeRecord_ok_iff cfg r f).1 h
  simp only [recordImage_length, Config.maxFrame]
  omega

theorem parseResponse_eq_ok {cfg : Config} {b : List Byte} {c : Byte} {k : RspKind}
    {p : RspOutcome × Bool} (h : parseResponse cfg b c k = .ok p) :
    ∃ pf, parseFrame cfg b true = .ok pf ∧ interpret cfg pf c k = .ok p := by
  unfold parseResponse at h
  split at h
  · cases h
  · next pf hpf => exact ⟨pf, hpf, h⟩

theorem parseResponse_error_kinds {cfg : Config} {b : List Byte} {c : Byte} {k : RspKind} {e : ErrorKind}
    (h : parseResponse cfg b c k = .error e) :
    e = .incomplete ∨ e = .checksumMismatch ∨ e = .malformedResponse ∨ (k = .read ∧ e = .invalidLength) := by
  unfold parseResponse at h
  split at h
  · next hpf =>
    cases h
    have := parseFrame_error_kinds hpf
    tauto
  · have := interpret_error_kinds h
    tauto

theorem knownOutcome_tagPresent {cfg : Config} {k : RspKind} {st b ch : Byte} {data : List Byte}
    {d : TagRecord} {w : Bool} (h : knownOutcome cfg k st b data = .ok (.tagPresent ch d, w)) :
    k = .read ∧ d = recordOf cfg (data.drop 1) := by
  cases k with
  | write =>
    unfold knownOutcome at h
    dsimp only at h
    split at h
    · cases h
    · split at h <;> cases h
  | read =>
    unfold knownOutcome at h
    dsimp only at h
    split at h
    · split at h
      · next hd =>
        cases h
        exact ⟨rfl, ((decodeRecord_ok_iff cfg _ _ _).1 hd).2.1⟩
      · cases h
    · split at h <;> cases h

/-- Only `RSP.READ` answers a present tag, and its record is a decoded one (R152). -/
theorem interpret_tagPresent {cfg : Config} {pf : ParsedFrame} {c ch : Byte} {k : RspKind}
    {d : TagRecord} {w : Bool} (h : interpret cfg pf c k = .ok (.tagPresent ch d, w)) :
    k = .read ∧ d = recordOf cfg (pf.data.drop 1) := by
  unfold interpret at h
  split at h
  · cases h
  · split at h
    · cases h
    · split at h
      · cases h
      · split at h
        · cases h
        · exact knownOutcome_tagPresent h

theorem parseResponse_tagPresent {cfg : Config} {b : List Byte} {c ch : Byte} {k : RspKind}
    {d : TagRecord} {w : Bool} (h : parseResponse cfg b c k = .ok (.tagPresent ch d, w)) :
    k = .read ∧ d.InFields := by
  obtain ⟨pf, -, hi⟩ := parseResponse_eq_ok h
  obtain ⟨hk, rfl⟩ := interpret_tagPresent hi
  exact ⟨hk, recordOf_inFields cfg _⟩

/-! ## The same for every answer -/

/-- The results fit the ports they go to (R14, R16, R30). -/
def Written.Fits (cfg : Config) : Written → Prop
  | .built f => f.length ≤ cfg.maxFrame
  | .decoded d _ | .responded (.tagPresent _ d) _ => d.InFields
  | .parsed pf => pf.data.length ≤ cfg.maxPayload
  | .checksum _ | .verdict _ | .responded _ _ => True

section
variable {cfg : Config} {o : OperandPorts} {i : Instr} {w : Written} {e : ErrorKind}

theorem answer_fits (h : answer cfg o i = some (.ok w)) : w.Fits cfg := by
  cases i with
  | bccCompute | bccVerify =>
    simp only [answer] at h
    split at h <;> cases h
    trivial
  | recEncode =>
    obtain ⟨f, hf, rfl⟩ := exceptMap_eq_ok_iff.1 (Option.some.inj h)
    exact encodeRecord_length_le hf
  | recDecode =>
    obtain ⟨⟨d, x⟩, hd, rfl⟩ := exceptMap_eq_ok_iff.1 (Option.some.inj h)
    obtain ⟨-, rfl, -⟩ := (decodeRecord_ok_iff cfg _ d x).1 hd
    exact recordOf_inFields cfg _
  | frmBuild =>
    obtain ⟨f, hf, rfl⟩ := exceptMap_eq_ok_iff.1 (Option.some.inj h)
    exact buildFrame_length_le hf
  | frmParse =>
    obtain ⟨pf, hpf, rfl⟩ := exceptMap_eq_ok_iff.1 (Option.some.inj h)
    exact parseFrame_data_length_le hpf
  | cmdRead =>
    obtain ⟨f, hf, rfl⟩ := exceptMap_eq_ok_iff.1 (Option.some.inj h)
    exact readCommand_length_le hf
  | cmdWrite =>
    obtain ⟨f, hf, rfl⟩ := exceptMap_eq_ok_iff.1 (Option.some.inj h)
    exact writeCommand_length_le hf
  | rspRead | rspWrite =>
    obtain ⟨⟨r, x⟩, hr, rfl⟩ := exceptMap_eq_ok_iff.1 (Option.some.inj h)
    cases r with
    | tagPresent ch d => exact (parseResponse_tagPresent hr).2
    | tagAbsent _ | authFailure _ | unknownStatus _ | writeOk _ | keyError _ => trivial
  | _ => cases h

/-- An answer writes ports of its operation only (R14, R70). -/
theorem answer_ports_writable (h : answer cfg o i = some (.ok w)) : w.ports ⊆ writablePorts i := by
  cases i with
  | bccCompute | bccVerify =>
    simp only [answer] at h
    split at h <;> cases h
    simp [Written.ports, writablePorts]
  | recEncode | frmBuild | cmdRead | cmdWrite | recDecode =>
    obtain ⟨f, -, rfl⟩ := exceptMap_eq_ok_iff.1 (Option.some.inj h)
    simp [Written.ports, writablePorts]
  | frmParse =>
    obtain ⟨pf, -, rfl⟩ := exceptMap_eq_ok_iff.1 (Option.some.inj h)
    exact parsedPorts_subset pf
  | rspRead =>
    obtain ⟨⟨r, x⟩, -, rfl⟩ := exceptMap_eq_ok_iff.1 (Option.some.inj h)
    cases r <;> simp [Written.ports, outcomePorts, writablePorts]
  | rspWrite =>
    obtain ⟨⟨r, x⟩, hr, rfl⟩ := exceptMap_eq_ok_iff.1 (Option.some.inj h)
    cases r with
    | tagPresent ch d => cases (parseResponse_tagPresent hr).1
    | tagAbsent _ | authFailure _ | unknownStatus _ | writeOk _ | keyError _ =>
      simp [Written.ports, outcomePorts, writablePorts]
  | _ => cases h

/-- An answer's error kind is one its operation may raise (R171). -/
theorem answer_error_raisable (h : answer cfg o i = some (.error e)) : e ∈ raisableKinds i := by
  cases i with
  | bccCompute | bccVerify =>
    simp only [answer] at h
    split at h <;> cases h
  | recEncode =>
    have := (encodeRecord_error_iff cfg _ e).1 (exceptMap_eq_error_iff.1 (Option.some.inj h))
    simp [raisableKinds, this]
  | recDecode =>
    have := (decodeRecord_error_iff cfg _ e).1 (exceptMap_eq_error_iff.1 (Option.some.inj h))
    simp [raisableKinds, this]
  | frmBuild =>
    have := (buildFrame_error_iff cfg _ _ e).1 (exceptMap_eq_error_iff.1 (Option.some.inj h))
    simp [raisableKinds, this]
  | frmParse =>
    have := parseFrame_error_kinds (exceptMap_eq_error_iff.1 (Option.some.inj h))
    simpa [raisableKinds] using this
  | cmdRead =>
    have := readCommand_error (exceptMap_eq_error_iff.1 (Option.some.inj h))
    simp [raisableKinds, this]
  | cmdWrite =>
    have := writeCommand_error (exceptMap_eq_error_iff.1 (Option.some.inj h))
    simpa [raisableKinds] using this
  | rspRead =>
    have := parseResponse_error_kinds (exceptMap_eq_error_iff.1 (Option.some.inj h))
    simp only [raisableKinds, List.mem_cons, List.not_mem_nil, or_false]
    tauto
  | rspWrite =>
    have := parseResponse_error_kinds (exceptMap_eq_error_iff.1 (Option.some.inj h))
    simpa [raisableKinds] using this
  | _ => cases h

theorem err_mem_writablePorts (i : Instr) : .err ∈ writablePorts i := by
  cases i <;> exact List.mem_cons_self

theorem unknownStatus_not_raisable (i : Instr) : .unknownStatus ∉ raisableKinds i := by
  cases i <;> simp [raisableKinds]

/-- After a one-shot operation only ports of its own hold a value (R24). -/
theorem heldAfter_subset {a : Except ErrorKind Written} (h : answer cfg o i = some a) :
    heldAfter a ⊆ writablePorts i := by
  cases a with
  | error e => simpa [heldAfter] using err_mem_writablePorts i
  | ok w => simpa [heldAfter, err_mem_writablePorts i] using answer_ports_writable h

end

theorem err_mem_heldAfter (a : Except ErrorKind Written) : .err ∈ heldAfter a := by
  cases a <;> exact List.mem_cons_self

end Sys2Proof.Machine
end

section
/-! SUPPORT. `DFR.FEED` seen from outside: its two ends, the deframer's registers after it, and that it keeps
the invariants of R17. -/

namespace Sys2Proof.Machine

/-! ## The deframer after each kind of byte (R122 to R124) -/

section
variable (s : State)

theorem State.feedHeader_df :
    s.feedHeader.df = if s.ops.rx = HEADER then
      { s.df with buf := Memory.write s.df.buf 0 s.ops.rx, cnt := 1, state := .awaitingLength }
    else s.df := by
  unfold State.feedHeader
  split <;> rfl

theorem State.feedLength_df :
    s.feedLength.df = if s.ops.rx.toNat + s.cfg.lenExcl.val < minFrame s.df.es then
      { s.df with cnt := 0, state := .awaitingHeader }
    else
      { s.df with buf := Memory.write s.df.buf 1 s.ops.rx, len := s.ops.rx, cnt := 2,
                  state := .awaitingBody } := by
  unfold State.feedLength
  split <;> rfl

theorem State.storeBody_df :
    s.storeBody.df =
      { s.df with buf := Memory.write s.df.buf s.df.cnt s.ops.rx, cnt := s.df.cnt + 1 } := rfl

theorem State.endFrame_df (f : List Byte) :
    (s.endFrame f).df = { s.df with cnt := 0, state := .awaitingHeader } := by
  unfold State.endFrame
  dsimp only
  split <;> rfl

end

/-! ## How a feed ends -/

/-- The state `t` a feed of `s` ends in, `d` being the deframer it leaves: no frame yet or an error, on
`EVT` and `ERR`, or a frame, on `P.*` as well (R124, R126). -/
def State.FeedEnd (s t : State) (d : Deframer) : Prop :=
  (∃ v, ∃ e ∈ raisableKinds .dfrFeed, t = { s with df := d }.feedEvent v e) ∨
  (∃ f pf, parseFrame s.cfg f s.df.es = .ok pf ∧ t = { s with df := d }.feedFrame pf)

theorem State.feedHeader_end (s : State) : s.FeedEnd s.feedHeader s.feedHeader.df := by
  refine .inl ⟨.incomplete, .incomplete, by decide, ?_⟩
  unfold State.feedHeader
  split <;> rfl

theorem State.feedLength_end (s : State) : s.FeedEnd s.feedLength s.feedLength.df := by
  unfold State.feedLength
  split
  · exact .inl ⟨.error, .malformedResponse, by decide, rfl⟩
  · exact .inl ⟨.incomplete, .incomplete, by decide, rfl⟩

theorem State.storeBody_end (s : State) :
    s.FeedEnd (s.storeBody.feedEvent .incomplete .incomplete) s.storeBody.df :=
  .inl ⟨.incomplete, .incomplete, by decide, rfl⟩

theorem State.endFrame_end (s : State) (f : List Byte) :
    s.FeedEnd (s.storeBody.endFrame f) (s.storeBody.endFrame f).df := by
  rw [State.endFrame_df]
  cases h : parseFrame s.cfg f s.df.es with
  | ok pf => exact .inr ⟨f, pf, h, by simp [State.endFrame, State.storeBody, h]⟩
  | error e =>
    have he : e ∈ raisableKinds .dfrFeed := by simpa [raisableKinds] using parseFrame_error_kinds h
    exact .inl ⟨.error, e, he, by simp [State.endFrame, State.storeBody, h]⟩

/-- Whatever the byte, a feed leaves the mode and the session alone and ends in one of its two ways. -/
theorem execDfrFeed_end {s t : State} (h : execDfrFeed s = .next t) :
    t.df.es = s.df.es ∧ t.df.inited = s.df.inited ∧ s.FeedEnd t t.df := by
  obtain ⟨-, ⟨-, rfl⟩ | ⟨-, rfl⟩ | ⟨-, -, ⟨-, rfl⟩ | ⟨-, f, -, rfl⟩⟩⟩ := execDfrFeed_cases h
  · refine ⟨?_, ?_, s.feedHeader_end⟩ <;> rw [State.feedHeader_df] <;> split <;> rfl
  · refine ⟨?_, ?_, s.feedLength_end⟩ <;> rw [State.feedLength_df] <;> split <;> rfl
  · exact ⟨rfl, rfl, s.storeBody_end⟩
  · refine ⟨?_, ?_, s.endFrame_end f⟩ <;> rw [State.endFrame_df] <;> rfl

theorem State.feedFrame_res (s : State) (pf : ParsedFrame) :
    (s.feedFrame pf).res =
      { s.res.withParsed pf with evt := .frame, err := none, held := .err :: .evt :: parsedPorts pf } := rfl

theorem ResultPorts.value_of_event (r : ResultPorts) (v : Event) (e : Option ErrorKind)
    (ps : List ResultPort) {p : ResultPort} (he : p ≠ .err) (hv : p ≠ .evt) :
    ({ r with evt := v, err := e, held := ps } : ResultPorts).value p = r.value p := by
  cases p with
  | err => exact absurd rfl he
  | evt => exact absurd rfl hv
  | _ => rfl

theorem parsedPorts_subset_dfrFeed (pf : ParsedFrame) : parsedPorts pf ⊆ writablePorts .dfrFeed :=
  List.Subset.trans (parsedPorts_subset pf) (by decide)

section
variable {s t : State} {d : Deframer}

/-- A feed touches the deframer and the result ports only (R19). -/
theorem State.FeedEnd.frame (h : s.FeedEnd t d) :
    t.cfg = s.cfg ∧ t.ops = s.ops ∧ t.caller = s.caller ∧ t.reads = s.reads := by
  obtain ⟨v, e, -, rfl⟩ | ⟨f, pf, -, rfl⟩ := h <;> exact ⟨rfl, rfl, rfl, rfl⟩

/-- A feed writes the ports of `DFR.FEED` only, and only those hold a value after it (R24, R126). -/
theorem State.FeedEnd.ports (h : s.FeedEnd t d) :
    (∀ p, p ∉ writablePorts .dfrFeed → t.res.value p = s.res.value p) ∧
    .err ∈ t.res.held ∧ t.res.held ⊆ writablePorts .dfrFeed := by
  obtain ⟨v, e, -, rfl⟩ | ⟨f, pf, -, rfl⟩ := h
  · refine ⟨fun p hp => ?_, List.mem_cons_self, by simp [writablePorts]⟩
    exact ResultPorts.value_of_event _ v _ _ (fun h => hp (by simp [h, writablePorts]))
      (fun h => hp (by simp [h, writablePorts]))
  · refine ⟨fun p hp => ?_, List.mem_cons_self, ?_⟩
    · have hpf : p ∉ parsedPorts pf := fun h => hp (parsedPorts_subset_dfrFeed pf h)
      rw [State.feedFrame_res, ResultPorts.value_of_event _ _ _ _
        (fun h => hp (by simp [h, writablePorts])) (fun h => hp (by simp [h, writablePorts])),
        ResultPorts.value_withParsed, if_neg hpf]
    · rw [State.feedFrame_res]
      exact List.cons_subset.2 ⟨by decide, List.cons_subset.2 ⟨by decide, parsedPorts_subset_dfrFeed pf⟩⟩

end

/-! ## The one byte of `DF.BUF` a feed stores (R122 to R124) -/

section
variable {s t : State} (h : execDfrFeed s = .next t)
include h

theorem execDfrFeed_buf_of_awaitingHeader (hs : s.df.state = .awaitingHeader) :
    t.df.buf = if s.ops.rx = HEADER then Memory.write s.df.buf 0 s.ops.rx else s.df.buf := by
  obtain ⟨-, ⟨-, rfl⟩ | ⟨hs', -⟩ | ⟨hs', -⟩⟩ := execDfrFeed_cases h
  · rw [State.feedHeader_df]
    split <;> rfl
  all_goals cases hs.symm.trans hs'

theorem execDfrFeed_buf_of_awaitingLength (hs : s.df.state = .awaitingLength) :
    t.df.buf = if s.ops.rx.toNat + s.cfg.lenExcl.val < minFrame s.df.es then s.df.buf
      else Memory.write s.df.buf 1 s.ops.rx := by
  obtain ⟨-, ⟨hs', -⟩ | ⟨-, rfl⟩ | ⟨hs', -⟩⟩ := execDfrFeed_cases h
  case inr.inl =>
    rw [State.feedLength_df]
    split <;> rfl
  all_goals cases hs.symm.trans hs'

theorem execDfrFeed_buf_of_awaitingBody (hs : s.df.state = .awaitingBody) :
    t.df.buf = Memory.write s.df.buf s.df.cnt s.ops.rx := by
  obtain ⟨-, ⟨hs', -⟩ | ⟨hs', -⟩ | ⟨-, -, ⟨-, rfl⟩ | ⟨-, f, -, rfl⟩⟩⟩ := execDfrFeed_cases h
  · cases hs.symm.trans hs'
  · cases hs.symm.trans hs'
  · rfl
  · rw [State.endFrame_df, State.storeBody_df]

end

/-! ## The invariants of the result ports -/

theorem Written.inv_on {cfg : Config} {w : Written} {r : ResultPorts} (hw : w.Fits cfg)
    (hr : ResultPorts.Inv cfg r) : ResultPorts.Inv cfg (w.on r) := by
  obtain ⟨he, ho, hp, hd⟩ := hr
  cases w with
  | checksum _ | verdict _ => exact ⟨he, ho, hp, hd⟩
  | built f => exact ⟨he, hw, hp, hd⟩
  | decoded d x => exact ⟨he, ho, hp, hw⟩
  | parsed pf => exact ⟨he, ho, hw, hd⟩
  | responded o x =>
    cases o with
    | tagPresent ch d => exact ⟨he, ho, hp, hw⟩
    | tagAbsent _ | authFailure _ | unknownStatus _ | writeOk _ | keyError _ => exact ⟨he, ho, hp, hd⟩

/-- Writing `ERR` and `EVT` keeps them, as long as the error kind is not the reserved one (R179). -/
theorem ResultPorts.inv_ended {cfg : Config} {r : ResultPorts} (hr : ResultPorts.Inv cfg r)
    {e : Option ErrorKind} (he : e ≠ some .unknownStatus) (v : Event) (ps : List ResultPort) :
    ResultPorts.Inv cfg { r with evt := v, err := e, held := ps } :=
  ⟨he, hr.2⟩

theorem ne_unknownStatus_of_raisable {i : Instr} {e : ErrorKind} (h : e ∈ raisableKinds i) :
    some e ≠ some ErrorKind.unknownStatus := by
  rintro ⟨⟩
  exact unknownStatus_not_raisable i h

theorem State.conclude_inv {s : State} {o : OperandPorts} {i : Instr} {a : Except ErrorKind Written}
    (ha : answer s.cfg o i = some a) (hs : ResultPorts.Inv s.cfg s.res) :
    ResultPorts.Inv s.cfg (s.conclude a).res := by
  cases a with
  | ok w => exact (Written.inv_on (answer_fits ha) hs).imp (fun _ => nofun) id
  | error e => exact hs.imp (fun _ => ne_unknownStatus_of_raisable (answer_error_raisable ha)) id

theorem State.FeedEnd.inv {s t : State} {d : Deframer} (h : s.FeedEnd t d)
    (hs : ResultPorts.Inv s.cfg s.res) : ResultPorts.Inv s.cfg t.res := by
  obtain ⟨v, e, he, rfl⟩ | ⟨f, pf, hpf, rfl⟩ := h
  · exact ResultPorts.inv_ended hs (ne_unknownStatus_of_raisable he) _ _
  · have hw : (Written.parsed pf).Fits s.cfg := parseFrame_data_length_le hpf
    exact ResultPorts.inv_ended (e := none) (Written.inv_on hw hs) nofun _ _

/-! ## The invariants of the deframer -/

/-- A deframer that waits for a header needs its buffer in order only (R17, R30). -/
theorem Deframer.inv_of_awaitingHeader {cfg : Config} {d : Deframer} (hwf : Memory.wf d.buf = true)
    (hmax : ∀ c ∈ d.buf, c.1 < cfg.maxFrame) (hs : d.state = .awaitingHeader) (hc : d.cnt = 0) :
    Deframer.Inv cfg d := by
  refine ⟨hwf, hmax, fun a ha => ?_, ?_, fun _ => hs, fun _ => hc, ?_, ?_⟩
  · omega
  all_goals simp [hs]

/-- Storing a byte at the first offset not yet counted keeps the buffer in order (R30, log 4). -/
theorem Memory.write_next {cfg : Config} {m : Memory} {n : Nat} (v : Byte) (hn : n < cfg.maxFrame)
    (hwf : Memory.wf m = true) (hmax : ∀ c ∈ m, c.1 < cfg.maxFrame)
    (hw : ∀ a, a < n → (Memory.read m a).isSome = true) :
    Memory.wf (Memory.write m n v) = true ∧ (∀ c ∈ Memory.write m n v, c.1 < cfg.maxFrame) ∧
      ∀ a, a < n + 1 → (Memory.read (Memory.write m n v) a).isSome = true := by
  refine ⟨Memory.wf_write n v hwf, fun c hc => ?_, fun a ha => ?_⟩
  · rcases Memory.mem_write hc with rfl | hc
    · exact hn
    · exact hmax c hc
  · rw [Memory.read_write]
    split
    · rfl
    · exact hw a (by omega)

section
variable {s : State} (hi : Deframer.Inv s.cfg s.df)
include hi

theorem feedHeader_inv (hini : s.df.inited = true) : Deframer.Inv s.cfg s.feedHeader.df := by
  rw [State.feedHeader_df]
  split
  case isFalse => exact hi
  case isTrue hrx =>
    obtain ⟨hwf, hmax, -⟩ := hi
    have h0 : 0 < s.cfg.maxFrame := by simp only [Config.maxFrame]; omega
    obtain ⟨hwf', hmax', hw'⟩ :=
      Memory.write_next s.ops.rx h0 hwf hmax (fun a ha => absurd ha (Nat.not_lt_zero a))
    refine ⟨hwf', hmax', hw', nofun, ?_, nofun, fun _ => ⟨rfl, ?_⟩, nofun⟩
    · simp [hini]
    · rw [Memory.read_write_same, hrx]

theorem feedLength_inv (hini : s.df.inited = true) (hs : s.df.state = .awaitingLength) :
    Deframer.Inv s.cfg s.feedLength.df := by
  obtain ⟨hwf, hmax, hw, -, -, -, hlen, -⟩ := hi
  obtain ⟨hcnt, h0⟩ := hlen hs
  rw [State.feedLength_df]
  split
  case isTrue => exact Deframer.inv_of_awaitingHeader hwf hmax rfl rfl
  case isFalse hl =>
    have h1 : 1 < s.cfg.maxFrame := by simp only [Config.maxFrame]; omega
    obtain ⟨hwf', hmax', hw'⟩ := Memory.write_next s.ops.rx h1 hwf hmax (hcnt ▸ hw)
    have h5 : minFrame s.df.es = 5 + s.df.es.toNat := minFrame_eq _
    refine ⟨hwf', hmax', hw', nofun, ?_, nofun, nofun, fun _ => ⟨le_rfl, ?_, ?_, ?_, ?_⟩⟩
    · simp [hini]
    · show 2 < s.ops.rx.toNat + s.cfg.lenExcl.val
      omega
    · rw [Memory.read_write_other _ _ Nat.zero_ne_one, h0]
    · exact Memory.read_write_same _ _ _
    · exact Nat.le_of_not_lt hl

/-- The bytes before the last one of a frame: what is stored stays, and more is to come (R17, R124). -/
theorem storeBody_inv (hini : s.df.inited = true) (hs : s.df.state = .awaitingBody)
    (hl : s.df.cnt + 1 < s.df.len.toNat + s.cfg.lenExcl.val) :
    Deframer.Inv s.cfg s.storeBody.df := by
  have hn : s.df.cnt < s.cfg.maxFrame := (endOfFrame_bytes hi hs).1
  obtain ⟨hwf, hmax, hw, -, -, -, -, hbody⟩ := hi
  obtain ⟨h2, -, h0, h1, hmin⟩ := hbody hs
  obtain ⟨hwf', hmax', hw'⟩ := Memory.write_next s.ops.rx hn hwf hmax hw
  rw [State.storeBody_df]
  refine ⟨hwf', hmax', hw', by simp [hs], by simp [hini], by simp [hs], by simp [hs],
    fun _ => ⟨by show 2 ≤ s.df.cnt + 1; omega, hl, ?_, ?_, hmin⟩⟩
  · rw [Memory.read_write_other _ _ (by omega), h0]
  · rw [Memory.read_write_other _ _ (by omega), h1]

theorem endFrame_inv (hs : s.df.state = .awaitingBody) (f : List Byte) :
    Deframer.Inv s.cfg (s.storeBody.endFrame f).df := by
  have hn : s.df.cnt < s.cfg.maxFrame := (endOfFrame_bytes hi hs).1
  obtain ⟨hwf, hmax, hw, -⟩ := hi
  obtain ⟨hwf', hmax', -⟩ := Memory.write_next s.ops.rx hn hwf hmax hw
  rw [State.endFrame_df]
  exact Deframer.inv_of_awaitingHeader hwf' hmax' rfl rfl

end

/-- A feed keeps the invariants (R17, R131). -/
theorem execDfrFeed_inv {s t : State} (hi : s.Inv) (h : execDfrFeed s = .next t) : t.Inv := by
  obtain ⟨hdf, hres⟩ := hi
  obtain ⟨-, -, hend⟩ := execDfrFeed_end h
  obtain ⟨hcfg, -⟩ := hend.frame
  unfold State.Inv
  rw [hcfg]
  refine ⟨?_, hend.inv hres⟩
  obtain ⟨hini, ⟨-, rfl⟩ | ⟨hs, rfl⟩ | ⟨hs, -, ⟨hl, rfl⟩ | ⟨-, f, -, rfl⟩⟩⟩ := execDfrFeed_cases h
  · exact feedHeader_inv hdf hini
  · exact feedLength_inv hdf hini hs
  · exact storeBody_inv hdf hini hs hl
  · exact endFrame_inv hdf hs f

end Sys2Proof.Machine
end

section
/-! The statements about the state as a whole: power-on, the caller's loads and reads, what each instruction
leaves unchanged, and that every step keeps the invariants. -/

namespace Sys2Proof.Machine

/-! ## The invariants through every instruction -/

theorem execDfrInit_inv {s t : State} (hi : s.Inv) (h : execDfrInit s = .next t) : t.Inv := by
  obtain ⟨⟨hwf, hmax, -⟩, hres⟩ := hi
  rw [execDfrInit_next h]
  exact ⟨Deframer.inv_of_awaitingHeader hwf hmax rfl rfl, ResultPorts.inv_ended (e := none) hres nofun _ _⟩

/-- Every instruction, with every operand, keeps the invariants. -/
theorem exec_inv {i : Instr} {s t : State} (hi : s.Inv) (h : exec i s = .next t) : t.Inv := by
  obtain hs | rfl | rfl := i.oneShot_or_deframer
  · obtain ⟨a, ha, rfl⟩ := (exec_oneShot_next_iff hs).1 h
    obtain ⟨hdf, hres⟩ := hi
    refine ⟨?_, ?_⟩
    · simpa only [State.conclude_cfg, State.conclude_df] using hdf
    · rw [State.conclude_cfg]
      exact State.conclude_inv (s := { s with ops := s.ops.handOver i }) ha hres
  · exact execDfrInit_inv hi h
  · exact execDfrFeed_inv hi h

/-- After `DFR.INIT` no byte stops the deframer: the invariants exclude what `DFR.FEED` has no meaning for
(R125, R131). -/
theorem execDfrFeed_isNext {s : State} (hi : Deframer.Inv s.cfg s.df) (hini : s.df.inited = true) :
    ∃ t, execDfrFeed s = .next t := by
  unfold execDfrFeed
  rw [if_pos hini]
  split
  case h_1 => exact ⟨_, rfl⟩
  case h_2 => exact ⟨_, rfl⟩
  case h_3 hs =>
    obtain ⟨hn, f, hf, -⟩ := endOfFrame_bytes hi hs
    unfold State.feedBody
    rw [if_pos hn]
    dsimp only
    split
    · exact ⟨_, rfl⟩
    · rw [show Memory.readRange s.storeBody.df.buf 0 s.storeBody.df.cnt = some f from hf]
      exact ⟨_, rfl⟩
  case h_4 hs =>
    obtain ⟨-, -, -, hc, -⟩ := hi
    exact absurd hs hc

/-! ## The obligations -/

/-- Settles O53: a step loads, reads or runs an instruction (`step_next_cases`); only the last touches what
the invariants speak of, and `exec_inv` has it. -/
theorem everyStepKeepsTheInvariants : Obligations.EveryStepKeepsTheInvariants := by
  intro s t hi h
  obtain ⟨-, rfl⟩ | ⟨w, rest, -, rfl⟩ | ⟨f, rest, i, -, -, he⟩ | ⟨g, rest, v, -, -, rfl⟩ :=
    step_next_cases h
  · exact hi
  · exact hi
  · refine exec_inv ?_ he
    simpa only [State.Inv, State.accept_cfg, State.accept_df, State.accept_res, State.popCaller_cfg,
      State.popCaller_df, State.popCaller_res] using hi
  · exact hi

/-- Settles O33, from the two ends of a feed (`execDfrFeed_end`) and the deframer after each kind of
byte. -/
theorem dfrFeedFrame : Obligations.DfrFeedFrame := by
  intro s t h
  obtain ⟨hes, hini, hend⟩ := execDfrFeed_end h
  obtain ⟨hcfg, hops, hcaller, hreads⟩ := hend.frame
  refine ⟨hcfg, hops, hcaller, hreads, hes, hini, hend.ports.1, fun hs => ?_, fun hs => ?_, fun hs => ?_⟩
  · rw [execDfrFeed_buf_of_awaitingHeader h hs]
    refine ⟨fun hrx => ?_, fun hrx a => ?_⟩
    · rw [if_pos hrx]
      exact ⟨Memory.read_write_same _ _ _, fun a => Memory.read_write_other _ _⟩
    · rw [if_neg hrx]
  · rw [execDfrFeed_buf_of_awaitingLength h hs, minFrame_eq]
    refine ⟨fun hl => ?_, fun hl a => ?_⟩
    · rw [if_neg (Nat.not_lt.2 hl)]
      exact ⟨Memory.read_write_same _ _ _, fun a => Memory.read_write_other _ _⟩
    · rw [if_pos hl]
  · rw [execDfrFeed_buf_of_awaitingBody h hs]
    exact ⟨Memory.read_write_same _ _ _, fun a => Memory.read_write_other _ _⟩

/-- Settles O34: a feed answers a next state (`execDfrFeed_isNext`) and keeps the invariants. -/
theorem dfrFeedIsTotal : Obligations.DfrFeedIsTotal := by
  intro s b hi hini
  obtain ⟨t, ht⟩ := execDfrFeed_isNext (s := s.load (.rx b)) hi.1 hini
  exact ⟨t, ht, execDfrFeed_inv (s := s.load (.rx b)) hi ht, (execDfrFeed_end ht).2.1.trans hini⟩

/-- Settles O55: a one-shot instruction writes its answer on the result ports, after a frame row has put its
frame on `IBUF`, `ES_IN` and `OP`. -/
theorem oneShotFrame : Obligations.OneShotFrame := by
  intro i s t hs h
  obtain ⟨a, -, rfl⟩ := (exec_oneShot_next_iff hs).1 h
  simp only [State.conclude_df, State.conclude_cfg, State.conclude_caller, State.conclude_reads,
    State.conclude_ops, true_and]
  exact ⟨s.ops.handOver_operation, s.ops.handOver_frame i⟩

/-- Settles O56: a port that holds a value is one the operation of the instruction writes
(`heldAfter_subset`), and every other keeps its value. -/
theorem onlyItsOwnResultPorts : Obligations.OnlyItsOwnResultPorts := by
  intro i s t h
  obtain hs | rfl | rfl := i.oneShot_or_deframer
  · obtain ⟨a, ha, rfl⟩ := (exec_oneShot_next_iff hs).1 h
    have hsub : heldAfter a ⊆ writablePorts i := writablePorts_runs i ▸ heldAfter_subset ha
    rw [State.conclude_held]
    refine ⟨fun p hp => ?_, err_mem_heldAfter a, hsub⟩
    rw [State.conclude_value, if_neg fun hm => hp (hsub hm)]
  · rw [execDfrInit_next h]
    refine ⟨fun p hp => ?_, List.mem_cons_self, fun p hp => hp⟩
    exact ResultPorts.value_of_ended s.res _ _ fun hm => hp (by simp [hm, writablePorts])
  · exact (execDfrFeed_end h).2.2.ports

/-- Settles O57: the answer is a function of the parameters and the operand ports, and a port that holds a
value carries the answer. -/
theorem oneShotResultsDependOnOperandsOnly : Obligations.OneShotResultsDependOnOperandsOnly := by
  intro i s₁ s₂ t₁ hs hcfg hops h
  obtain ⟨a, ha, rfl⟩ := (exec_oneShot_next_iff hs).1 h
  rw [hcfg, hops] at ha
  refine ⟨_, (exec_oneShot_next_iff hs).2 ⟨a, ha, rfl⟩, ?_, fun p hp => ?_⟩
  · rw [State.conclude_held, State.conclude_held]
  · rw [State.conclude_held] at hp
    exact State.conclude_value_of_held hp _ _

/-- Settles O6, one clause per action of the caller. -/
theorem idleLoadAndReadSteps : Obligations.IdleLoadAndReadSteps := by
  intro s
  refine ⟨step_of_idle, fun w rest hc => ?_, fun p rest hc hp => ?_, fun p rest hc hp => ?_,
    fun rest hc => step_of_pending hc⟩
  · rw [step_of_pending hc]
    cases w <;> rfl
  · have hr := State.readTarget_of_not_held (s := s.popCaller rest) hp
    simp [step_of_pending hc, State.act, State.readBack, hr]
  · have hr := State.readTarget_of_held (s := s.popCaller rest) hp
    rw [step_of_pending hc, State.act, State.readBack, hr]
    cases p <;> rfl

/-- Settles O52: after power-on the deframer waits for a header with an empty buffer. -/
theorem resetMeetsTheInvariants : Obligations.ResetMeetsTheInvariants :=
  ⟨Deframer.inv_of_awaitingHeader rfl nofun rfl rfl, by decide⟩

/-- Settles O54, each value by evaluating the state after power-on. -/
theorem powerOnResetValues : Obligations.PowerOnResetValues :=
  ⟨rfl, rfl, rfl, fun _ => rfl, ResultPort.mem_all, rfl, rfl, rfl, rfl, rfl, rfl, rfl, rfl, rfl, rfl, rfl,
    rfl, rfl, rfl⟩

end Sys2Proof.Machine
end

section
/-! The statements about record images: where each byte of an encoded record stands, and which bytes each
field of a decoded record is read from. -/

namespace Sys2Proof.Machine

/-! ## Slices of a sequence of parts -/

theorem slice_append_right {a : List Byte} {off : Nat} (h : a.length ≤ off) (b : List Byte) (n : Nat) :
    slice (a ++ b) off n = slice b (off - a.length) n := by
  rw [slice, List.drop_append, List.drop_eq_nil_of_le h, List.nil_append, slice]

theorem slice_append_left {a : List Byte} {n : Nat} (h : a.length = n) (b : List Byte) :
    slice (a ++ b) 0 n = a := slice_part (a := []) rfl h

theorem slice_self {a : List Byte} {n : Nat} (h : a.length = n) : slice a 0 n = a := by
  simpa using slice_append_left h []

/-! ## The text fields and the reserved bytes of an image (R60, R63, R93) -/

section
variable (cfg : Config) (r : RecordOperand)

theorem slice_recordImage_manufacturer :
    slice (recordImage cfg r) 2 16 = textField r.manufacturer 16 := by
  simp [recordImage, slice_append_right, slice_append_left]

theorem slice_recordImage_material :
    slice (recordImage cfg r) 18 16 = textField r.material 16 := by
  simp [recordImage, slice_append_right, slice_append_left]

theorem slice_recordImage_color : slice (recordImage cfg r) 34 32 = textField r.color 32 := by
  simp [recordImage, W_MANUF, W_MATERIAL, slice_append_right, slice_append_left]

theorem slice_recordImage_reserved : slice (recordImage cfg r) 76 36 = rep 0x00 36 := by
  simp [recordImage, W_MANUF, W_MATERIAL, W_COLOR, slice_append_right, slice_self]

end

/-- The bytes of a part of an image that is a text field (R62, R93). -/
theorem byteAt_of_slice_eq_textField {b t : List Byte} {off w : Nat} (h : slice b off w = textField t w) :
    ∀ i, i < w → byteAt b (off + i) = t.getD i 0x00 := fun i hi => by
  rw [← byteAt_slice hi, h, byteAt_textField hi]

/-! ## The numbers of an image (R33, R61) -/

/-- The value of a 16-bit number in terms of its two bytes (R33). -/
theorem u16Read_toNat (e : Endian) (b : List Byte) (off : Nat) :
    (u16Read e b off).toNat =
      if e = .big then (byteAt b off).toNat * 256 + (byteAt b (off + 1)).toNat
      else (byteAt b (off + 1)).toNat * 256 + (byteAt b off).toNat := by
  cases e
  case big => exact append_toNat _ _
  case little => exact append_toNat _ _

theorem eq_ofNat_high {x y : Byte} {v : Nat} (h : v = x.toNat * 256 + y.toNat) :
    x = BitVec.ofNat 8 (v / 256) := by
  bv_omega

theorem eq_ofNat_low {x y : Byte} {v : Nat} (h : v = x.toNat * 256 + y.toNat) :
    y = BitVec.ofNat 8 v := by
  bv_omega

/-- The two bytes of a number that fits, in either byte order. -/
theorem bytes_of_u16Read_eq_half {e : Endian} {b : List Byte} {off v : Nat} (hv : v ≤ 65535)
    (h : u16Read e b off = half v) :
    byteAt b off = BitVec.ofNat 8 (if e = .big then v / 256 else v) ∧
      byteAt b (off + 1) = BitVec.ofNat 8 (if e = .big then v else v / 256) := by
  have hread : v = (u16Read e b off).toNat := by
    rw [h, half, BitVec.toNat_ofNat, Nat.mod_eq_of_lt (by omega)]
  rw [u16Read_toNat] at hread
  cases e
  case big => exact ⟨eq_ofNat_high hread, eq_ofNat_low hread⟩
  case little => exact ⟨eq_ofNat_low hread, eq_ofNat_high hread⟩

/-- The numbers of a record that fits read back from its image as they are. -/
theorem recordImage_numbers (cfg : Config) {r : RecordOperand} (hfits : r.Fits) :
    ∀ p ∈ [(0, r.version), (66, r.diameter), (68, r.weight), (70, r.printTemp), (72, r.bedTemp),
        (74, r.density)], p.2 ≤ 65535 ∧ u16Read cfg.recEndian (recordImage cfg r) p.1 = half p.2 := by
  have h := recordOf_recordImage cfg r
  simp only [recordOf, TagRecord.mk.injEq] at h
  obtain ⟨hver, -, -, -, hdiam, hweight, hprint, hbed, hdens⟩ := h
  simp [hfits, hver, hdiam, hweight, hprint, hbed, hdens]

/-! ## The texts of a decoded record (R97) -/

/-- Padding bytes are NUL and space (R97). -/
theorem isPad_eq_true_iff (x : Byte) : isPad x = true ↔ x = 0x00 ∨ x = 0x20 := by
  simp [isPad]

/-- What `strip` leaves, and the padding it takes away (R97). -/
theorem exists_padding_of_strip (f : List Byte) :
    ∃ pad : List Byte, f = strip f ++ pad ∧ (∀ x ∈ pad, x = 0x00 ∨ x = 0x20) ∧
      (∀ x ∈ (strip f).getLast?, x ≠ 0x00 ∧ x ≠ 0x20) := by
  obtain ⟨pad, hf, hpad, hlast⟩ := (strip_eq_iff f _).1 rfl
  refine ⟨pad, hf, fun x hx => (isPad_eq_true_iff x).1 (hpad x hx), fun x hx => ?_⟩
  rw [← not_or, ← isPad_eq_true_iff, hlast x hx]
  exact Bool.false_ne_true

/-! ## The obligations -/

/-- Settles O13: the image is its parts one after another, so each number reads back from its offset, and each
text field and the reserved bytes are a slice of it. -/
theorem recordImageLayout : Obligations.RecordImageLayout := by
  intro cfg r e h
  obtain ⟨hfits, rfl⟩ := (encodeRecord_ok_iff cfg r e).1 h
  refine ⟨recordImage_length cfg r, fun p hp => ?_,
    byteAt_of_slice_eq_textField (slice_recordImage_manufacturer cfg r),
    byteAt_of_slice_eq_textField (slice_recordImage_material cfg r),
    byteAt_of_slice_eq_textField (slice_recordImage_color cfg r), fun i hlow hhigh => ?_⟩
  · obtain ⟨hle, hread⟩ := recordImage_numbers cfg hfits p hp
    exact bytes_of_u16Read_eq_half hle hread
  · obtain ⟨k, rfl⟩ := Nat.exists_eq_add_of_le hlow
    have hk : k < 36 := by omega
    rw [← byteAt_slice hk, slice_recordImage_reserved, byteAt_eq_getElem (by simpa)]
    exact List.getElem_replicate _

/-- Settles O15: a number is the value of its two bytes (`u16Read_toNat`), a text its field stripped
(`exists_padding_of_strip`). -/
theorem recordFieldsRead : Obligations.RecordFieldsRead := by
  intro cfg b d w h
  obtain ⟨-, rfl, rfl⟩ := (decodeRecord_ok_iff cfg b d w).1 h
  refine ⟨rfl, ?_, ?_⟩
  · simp only [List.forall_mem_cons]
    exact ⟨u16Read_toNat _ b 0, u16Read_toNat _ b 66, u16Read_toNat _ b 68, u16Read_toNat _ b 70,
      u16Read_toNat _ b 72, u16Read_toNat _ b 74, nofun⟩
  · simp only [List.forall_mem_cons]
    exact ⟨exists_padding_of_strip _, exists_padding_of_strip _, exists_padding_of_strip _, nofun⟩

end Sys2Proof.Machine
end

section
/-! The decoder and the encoder (R64, R67, R70): which row each frame meets, that decoding and encoding undo
each other, and the `OP` codes that select nothing (R73). -/

namespace Sys2Proof

/-! ## What is issued, by its kind -/

theorem decode_command (len command third : Byte) (tail : List Byte) :
    decode (.frame false (HEADER :: len :: command :: third :: tail)) =
      .ok (decodeCmdFrame len command third tail) := rfl

theorem decode_response (len command status : Byte) (tail : List Byte) :
    decode (.frame true (HEADER :: len :: command :: status :: tail)) =
      .ok (decodeRspFrame len command status tail) := rfl

/-- A byte sequence that is an instruction has at least four bytes and starts with the header (R67). -/
theorem decodeFrame_eq_ok {es : Bool} {bytes : List Byte} {i : Instr} (h : decodeFrame es bytes = .ok i) :
    ∃ b1 b2 b3 tail, bytes = HEADER :: b1 :: b2 :: b3 :: tail ∧
      i = if es then decodeRspFrame b1 b2 b3 tail else decodeCmdFrame b1 b2 b3 tail := by
  unfold decodeFrame at h
  split at h
  case h_2 => cases h
  case h_1 b0 b1 b2 b3 tail =>
    split at h
    case isFalse => cases h
    case isTrue h0 =>
      refine ⟨b1, b2, b3, tail, by rw [h0], ?_⟩
      cases es <;> cases h <;> rfl

/-! ## The row a command frame meets (R67) -/

theorem isFixedCommandPrefix_eq_false_iff (len command : Byte) :
    isFixedCommandPrefix len command = false ↔
      ¬ (len = 0x06 ∧ command = CMD_READ) ∧ ¬ (len = 0x76 ∧ command = CMD_WRITE) := by
  simp [isFixedCommandPrefix]

section
variable (len command third : Byte) (tail : List Byte)

theorem decodeCmdFrame_generic (h : isFixedCommandPrefix len command = false) :
    decodeCmdFrame len command third tail = .genericCmdFrame len command third tail := by
  obtain ⟨hr, hw⟩ := (isFixedCommandPrefix_eq_false_iff len command).1 h
  rw [decodeCmdFrame, if_neg hr, if_neg hw]

/-- A command frame is what the row it meets encodes, and it meets no earlier row. -/
theorem decodeCmdFrame_sound :
    encode (decodeCmdFrame len command third tail) =
        .frame false (HEADER :: len :: command :: third :: tail) ∧
      (decodeCmdFrame len command third tail).wellFormed = true := by
  unfold decodeCmdFrame
  split
  case isTrue h =>
    obtain ⟨rfl, rfl⟩ := h
    exact ⟨rfl, rfl⟩
  case isFalse hr =>
    split
    case isTrue h =>
      obtain ⟨rfl, rfl⟩ := h
      exact ⟨rfl, rfl⟩
    case isFalse hw =>
      refine ⟨rfl, ?_⟩
      simp only [Instr.wellFormed, (isFixedCommandPrefix_eq_false_iff len command).2 ⟨hr, hw⟩, Bool.not_false]

end

/-! ## The row a response frame meets (R67) -/

theorem isKnownStatus_eq_false_iff (status : Byte) :
    isKnownStatus status = false ↔ status ≠ STA_OK ∧ status ≠ STA_AUTH ∧ status ≠ STA_NOTAG := by
  simp [isKnownStatus, and_assoc]

/-- The known statuses are the values up to 2 (R57). -/
theorem isKnownStatus_of_gt {status : Byte} (h : 2 < status.toNat) : isKnownStatus status = false := by
  rw [isKnownStatus_eq_false_iff]
  refine ⟨?_, ?_, ?_⟩ <;> rintro rfl <;> exact absurd h (by decide)

section
variable (len command status : Byte) (tail : List Byte)

theorem decodeRspFrame_readRspUnknown (h : isKnownStatus status = false) :
    decodeRspFrame len CMD_READ status tail = .readRspUnknown len status tail := by
  obtain ⟨hok, hauth, hnotag⟩ := (isKnownStatus_eq_false_iff status).1 h
  rw [decodeRspFrame, if_pos rfl, if_neg hok, if_neg hauth, if_neg hnotag]

theorem decodeRspFrame_writeRspUnknown (h : isKnownStatus status = false) :
    decodeRspFrame len CMD_WRITE status tail = .writeRspUnknown len status tail := by
  obtain ⟨hok, hauth, hnotag⟩ := (isKnownStatus_eq_false_iff status).1 h
  rw [decodeRspFrame, if_neg (by decide), if_pos rfl, if_neg hok, if_neg hauth, if_neg hnotag]

theorem decodeRspFrame_generic (hr : command ≠ CMD_READ) (hw : command ≠ CMD_WRITE) :
    decodeRspFrame len command status tail = .genericRspFrame len command status tail := by
  rw [decodeRspFrame, if_neg hr, if_neg hw]

theorem wellFormed_genericRspFrame_iff :
    (Instr.genericRspFrame len command status tail).wellFormed = true ↔
      command ≠ CMD_READ ∧ command ≠ CMD_WRITE := by
  simp [Instr.wellFormed]

/-- A status is one of the three known ones or none of them. -/
theorem status_cases :
    status = STA_OK ∨ status = STA_AUTH ∨ status = STA_NOTAG ∨ isKnownStatus status = false := by
  rw [isKnownStatus_eq_false_iff]
  tauto

/-- A response frame is what the row it meets encodes, and it meets no earlier row. -/
theorem decodeRspFrame_sound :
    encode (decodeRspFrame len command status tail) =
        .frame true (HEADER :: len :: command :: status :: tail) ∧
      (decodeRspFrame len command status tail).wellFormed = true := by
  by_cases hr : command = CMD_READ
  · subst hr
    obtain rfl | rfl | rfl | h := status_cases status
    case inr.inr.inr =>
      rw [decodeRspFrame_readRspUnknown len status tail h]
      exact ⟨rfl, by simp only [Instr.wellFormed, h, Bool.not_false]⟩
    all_goals exact ⟨rfl, rfl⟩
  by_cases hw : command = CMD_WRITE
  · subst hw
    obtain rfl | rfl | rfl | h := status_cases status
    case inr.inr.inr =>
      rw [decodeRspFrame_writeRspUnknown len status tail h]
      exact ⟨rfl, by simp only [Instr.wellFormed, h, Bool.not_false]⟩
    all_goals exact ⟨rfl, rfl⟩
  rw [decodeRspFrame_generic len command status tail hr hw]
  exact ⟨rfl, (wellFormed_genericRspFrame_iff len command status tail).2 ⟨hr, hw⟩⟩

end

/-! ## The operation an `OP` code selects (R70, R73) -/

/-- An operation is well formed and encoded by the code that selects it (R70). -/
theorem decodeOp_sound {code : BitVec 4} {i : Instr} (h : decodeOp code = .ok i) :
    encode i = .op code ∧ i.wellFormed = true := by
  unfold decodeOp at h
  split at h <;> cases h <;> exact ⟨rfl, rfl⟩

/-- A code that selects no operation is reported by name, and those are 0x0, 0xD, 0xE and 0xF (R73). -/
theorem decodeOp_cases (code : BitVec 4) :
    ((code = 0x0#4 ∨ code = 0xD#4 ∨ code = 0xE#4 ∨ code = 0xF#4) ∧
        decodeOp code = .error (.noOperation code)) ∨
      (¬ (code = 0x0#4 ∨ code = 0xD#4 ∨ code = 0xE#4 ∨ code = 0xF#4) ∧ ∃ i, decodeOp code = .ok i) := by
  unfold decodeOp
  split
  case h_13 =>
    refine .inl ⟨?_, rfl⟩
    revert code
    decide
  all_goals exact .inr ⟨by decide, _, rfl⟩

/-! ## The obligations -/

/-- Settles O1: the fixed rows decode by evaluation; for the `_UNKNOWN` and the generic rows well-formedness
is what keeps the decoder from an earlier row. -/
theorem decodeOfEncode : Obligations.DecodeOfEncode := by
  intro i hwf
  cases i with
  | bccCompute | bccVerify | recEncode | recDecode | frmBuild | frmParse | cmdRead | cmdWrite | rspRead
  | rspWrite | dfrInit | dfrFeed => rfl
  | readReq _ _ | writeReq _ _ | readRspOk _ _ | readRspAuth _ _ | readRspNotag _ _
  | writeRspOk _ _ | writeRspKeyerr _ _ | writeRspNotag _ _ => rfl
  | readRspUnknown len status tail =>
    rw [encode, decode_response,
      decodeRspFrame_readRspUnknown len status tail (by simpa [Instr.wellFormed] using hwf)]
  | writeRspUnknown len status tail =>
    rw [encode, decode_response,
      decodeRspFrame_writeRspUnknown len status tail (by simpa [Instr.wellFormed] using hwf)]
  | genericCmdFrame len command third tail =>
    rw [encode, decode_command,
      decodeCmdFrame_generic len command third tail (by simpa [Instr.wellFormed] using hwf)]
  | genericRspFrame len command status tail =>
    obtain ⟨hr, hw⟩ := (wellFormed_genericRspFrame_iff len command status tail).1 hwf
    rw [encode, decode_response, decodeRspFrame_generic len command status tail hr hw]

/-- Settles O2, one soundness lemma per kind of what is issued. -/
theorem encodeOfDecode : Obligations.EncodeOfDecode := by
  intro f i h
  cases f with
  | op code => exact decodeOp_sound h
  | frame es bytes =>
    obtain ⟨b1, b2, b3, tail, rfl, rfl⟩ := decodeFrame_eq_ok h
    cases es with
    | false => exact decodeCmdFrame_sound b1 b2 b3 tail
    | true => exact decodeRspFrame_sound b1 b2 b3 tail

/-- Settles O3, each word by evaluating the decoder. -/
theorem writtenOutWordsDecode : Obligations.WrittenOutWordsDecode :=
  ⟨rfl, rfl, rfl, rfl, rfl, rfl, rfl, rfl, rfl⟩

end Sys2Proof

namespace Sys2Proof.Machine

/-- The refusals of `DFR.FEED` (R24, R125, R130). -/
theorem execDfrFeed_refused {s : State} {r : Refusal} (h : execDfrFeed s = .refused r) :
    r = .feedBeforeInit ∨ r = .feedInComplete ∨ r = .bufferByteUnwritten := by
  unfold execDfrFeed at h
  split at h
  case isFalse => cases h; exact .inl rfl
  case isTrue =>
    split at h
    case h_1 => cases h
    case h_2 => cases h
    case h_4 => cases h; exact .inr (.inl rfl)
    case h_3 =>
      unfold State.feedBody at h
      split at h
      case isFalse => cases h
      case isTrue =>
        dsimp only at h
        split at h
        case isTrue => cases h
        case isFalse =>
          split at h
          · cases h
          · cases h
            exact .inr (.inr rfl)

/-- An instruction is never refused as if its `OP` code selected nothing: that refusal is the decoder's. -/
theorem exec_ne_noOperation (i : Instr) (s : State) (code : BitVec 4) :
    exec i s ≠ .refused (.noOperation code) := by
  intro h
  obtain hs | rfl | rfl := i.oneShot_or_deframer
  · rw [exec_eq_exec_runs, exec_operation _ (i.runs_isOneShot.trans hs) i.runs_isOperation] at h
    split at h <;> cases h
  · cases h
  · obtain hr | hr | hr := execDfrFeed_refused h <;> cases hr

/-- Settles O4: an unassigned code is refused by the decoder (`decodeOp_cases`), and no assigned one runs into
that refusal (`exec_ne_noOperation`). -/
theorem unassignedOpCodesAreRefused : Obligations.UnassignedOpCodesAreRefused := by
  intro s rest code hc
  rw [step_of_pending hc]
  obtain ⟨hcode, hd⟩ | ⟨hcode, i, hd⟩ := decodeOp_cases code
  · exact iff_of_true hcode (State.issue_of_decode_error (f := .op code) hd)
  · refine iff_of_false hcode ?_
    rw [State.act, State.issue_of_decode_ok (f := .op code) hd]
    exact exec_ne_noOperation i _ code

end Sys2Proof.Machine
end

section
/-! Frames as what they are made of: the covered bytes, their checksum and the terminator (R51, R53). From it:
which byte sequences `ParseFrame` accepts (O23), and what it reads from a frame the engine built. -/

namespace Sys2Proof.Machine

/-- A sequence of covered bytes made a frame: its checksum and the terminator are put after it (R51). -/
def sealFrame (h : List Byte) : List Byte := h ++ [bcc h, TERM]

@[simp] theorem sealFrame_length (h : List Byte) : (sealFrame h).length = h.length + 2 := by
  simp [sealFrame]

theorem slice_sealFrame {h : List Byte} {off n : Nat} (hn : off + n ≤ h.length) :
    slice (sealFrame h) off n = slice h off n := by
  rw [slice, sealFrame, List.drop_append_of_le_length (by omega),
    List.take_append_of_le_length (by rw [List.length_drop]; omega), slice]

/-- The two checks of R113 that look at the end of a frame say that it is a sealed sequence. -/
theorem eq_sealFrame_iff {b : List Byte} (h2 : 2 ≤ b.length) :
    b = sealFrame (slice b 0 (b.length - 2)) ↔
      byteAt b (b.length - 1) = TERM ∧ byteAt b (b.length - 2) = bcc (slice b 0 (b.length - 2)) := by
  obtain ⟨h, x, y, rfl⟩ : ∃ h x y, b = h ++ [x, y] := by
    refine ⟨b.take (b.length - 2), b[b.length - 2], b[b.length - 1], ?_⟩
    conv_lhs => rw [← List.take_append_drop (b.length - 2) b]
    rw [List.drop_eq_getElem_cons (by omega), List.drop_eq_getElem_cons (by omega),
      List.drop_eq_nil_of_le (by omega)]
    simp only [show b.length - 2 + 1 = b.length - 1 by omega]
  have hx : byteAt (h ++ [x, y]) h.length = x := byteAt_append_length h [x, y]
  have hy : byteAt (h ++ [x, y]) (h.length + 1) = y := byteAt_append_right h [x, y] 1
  simp [sealFrame, slice_append_left, hx, hy, and_comm]

/-- The bytes of a parsed frame before its checksum, for a length byte (R51, R53). -/
def ParsedFrame.covered (pf : ParsedFrame) (len : Byte) : List Byte :=
  [HEADER, len, pf.command] ++ pf.status.toList ++ pf.data

theorem ParsedFrame.covered_length (pf : ParsedFrame) (len : Byte) :
    (pf.covered len).length = 3 + pf.status.isSome.toNat + pf.data.length := by
  rcases pf with ⟨c, _ | st, d⟩ <;> simp [covered] <;> omega

/-- The parts of a sealed sequence are those it was made of. -/
theorem splitFrame_covered (pf : ParsedFrame) (len : Byte) :
    splitFrame (sealFrame (pf.covered len)) (sealFrame (pf.covered len)).length pf.status.isSome = pf := by
  rcases pf with ⟨c, _ | st, d⟩ <;> simp [splitFrame, sealFrame, ParsedFrame.covered, byteAt, slice]

theorem exists_cons_five {b : List Byte} (h : 5 ≤ b.length) :
    ∃ b0 b1 b2 b3 b4 rest, b = b0 :: b1 :: b2 :: b3 :: b4 :: rest := by
  match b, h with
  | b0 :: b1 :: b2 :: b3 :: b4 :: rest, _ => exact ⟨b0, b1, b2, b3, b4, rest, rfl⟩

/-- The covered bytes of a sequence are those of its parts, once its first byte is the header. -/
theorem covered_splitFrame {b : List Byte} {es : Bool} (h0 : byteAt b 0 = HEADER)
    (hm : minFrame es ≤ b.length) :
    (splitFrame b b.length es).status.isSome = es ∧
      (splitFrame b b.length es).covered (byteAt b 1) = slice b 0 (b.length - 2) := by
  cases es with
  | false =>
    obtain ⟨b0, b1, b2, b3, b4, rest, rfl⟩ := exists_cons_five hm
    obtain rfl : b0 = HEADER := h0
    simp [splitFrame, ParsedFrame.covered, byteAt, slice]
  | true =>
    obtain ⟨b0, b1, b2, b3, b4, _ | ⟨b5, rest⟩, rfl⟩ := exists_cons_five (Nat.le_of_succ_le hm)
    · simp [minFrame] at hm
    obtain rfl : b0 = HEADER := h0
    simp [splitFrame, ParsedFrame.covered, byteAt, slice]

/-- `ParseFrame` accepts the sealed sequences whose length byte is right, and reads their parts (R51 to R54,
R113). -/
theorem parseFrame_eq_ok_iff {cfg : Config} {b : List Byte} {es : Bool} {pf : ParsedFrame} :
    parseFrame cfg b es = .ok pf ↔
      pf.status.isSome = es ∧
        ∃ len : Byte, len.toNat + cfg.lenExcl.val = b.length ∧ b = sealFrame (pf.covered len) := by
  rw [parseFrame_ok_iff]
  constructor
  · rintro ⟨h2, h0, hlen, hmin, hterm, hbcc, rfl⟩
    obtain ⟨hes, hcov⟩ := covered_splitFrame h0 hmin
    refine ⟨hes, byteAt b 1, hlen.symm, ?_⟩
    rw [hcov]
    exact (eq_sealFrame_iff h2).2 ⟨hterm, hbcc⟩
  · rintro ⟨rfl, len, hlen, rfl⟩
    have h2 : 2 ≤ (sealFrame (pf.covered len)).length := by rw [sealFrame_length]; omega
    have hcov : slice (sealFrame (pf.covered len)) 0 ((sealFrame (pf.covered len)).length - 2) =
        pf.covered len := by
      rw [sealFrame_length, Nat.add_sub_cancel, slice_sealFrame (by omega), slice_self rfl]
    obtain ⟨hterm, hbcc⟩ := (eq_sealFrame_iff h2).1 (by rw [hcov])
    refine ⟨h2, rfl, hlen.symm, ?_, hterm, hbcc, (splitFrame_covered pf len).symm⟩
    rw [sealFrame_length, ParsedFrame.covered_length, minFrame_eq]
    omega

/-- A frame the engine built parses back into its command and payload (R116). -/
theorem parseFrame_of_buildFrame {cfg : Config} {c : Byte} {p f : List Byte} (h : buildFrame cfg c p = .ok f) :
    parseFrame cfg f false = .ok ⟨c, none, p⟩ := by
  have he := cfg.lenExcl_le
  obtain ⟨hp, rfl⟩ := (buildFrame_ok_iff cfg c p f).1 h
  refine parseFrame_eq_ok_iff.2 ⟨rfl, BitVec.ofNat 8 (p.length + 5 - cfg.lenExcl.val), ?_, ?_⟩
  · rw [BitVec.toNat_ofNat, Nat.mod_eq_of_lt (by omega)]
    simp
    omega
  · simp [sealFrame, ParsedFrame.covered]

/-- Settles O23, with the covered bytes written out. -/
theorem parseFrameAcceptsExactlyTheFrames : Obligations.ParseFrameAcceptsExactlyTheFrames := by
  intro cfg b es pf
  exact parseFrame_eq_ok_iff

end Sys2Proof.Machine
end

section
/-! The response parsers (R152 to R159): what each makes of a response frame, by its status and data, and that
the composite operations equal their expansions (R72). -/

namespace Sys2Proof.Machine

/-! ## The interpretation of a response of the expected command (R152) -/

section
variable {cfg : Config} {k : RspKind} {c st ch : Byte} {d : List Byte}

theorem interpret_unknownStatus (h : 2 < st.toNat) :
    interpret cfg ⟨c, some st, d⟩ c k = .ok (.unknownStatus st, false) := by
  rw [interpret_expected, if_pos h]

theorem interpret_noData (h : st.toNat ≤ 2) :
    interpret cfg ⟨c, some st, []⟩ c k = .error .malformedResponse := by
  rw [interpret_expected, if_neg (Nat.not_lt.2 h)]

theorem interpret_knownStatus (h : st.toNat ≤ 2) :
    interpret cfg ⟨c, some st, ch :: d⟩ c k = knownOutcome cfg k st ch (ch :: d) := by
  rw [interpret_expected, if_neg (Nat.not_lt.2 h)]

/-- The surplus warning of an outcome that uses the channel byte only (R157). -/
theorem warnSurplus_cons (ch : Byte) (d : List Byte) : warnSurplus (ch :: d) = decide (0 < d.length) := by
  simp [warnSurplus]

/-- A present tag is the decoded record of the data after the channel byte (R152, R161). -/
theorem knownOutcome_read_ok {r : TagRecord} {w : Bool} (h : decodeRecord cfg d = .ok (r, w)) :
    knownOutcome cfg .read STA_OK ch (ch :: d) = .ok (.tagPresent ch r, w) := by
  simp [knownOutcome, h]

theorem knownOutcome_read_ok_error {e : ErrorKind} (h : decodeRecord cfg d = .error e) :
    knownOutcome cfg .read STA_OK ch (ch :: d) = .error e := by
  simp [knownOutcome, h]

theorem knownOutcome_read_auth :
    knownOutcome cfg .read STA_AUTH ch (ch :: d) = .ok (.authFailure ch, decide (0 < d.length)) := by
  rw [← warnSurplus_cons ch d]
  rfl

theorem knownOutcome_read_notag :
    knownOutcome cfg .read STA_NOTAG ch (ch :: d) = .ok (.tagAbsent ch, decide (0 < d.length)) := by
  rw [← warnSurplus_cons ch d]
  rfl

/-- The outcome of a write acknowledgement, by its status (R152, R154). -/
def writeOutcome (st ch : Byte) : RspOutcome :=
  if st = STA_OK then .writeOk ch else if st = STA_AUTH then .keyError ch else .tagAbsent ch

theorem knownOutcome_write :
    knownOutcome cfg .write st ch (ch :: d) = .ok (writeOutcome st ch, decide (0 < d.length)) := by
  rw [← warnSurplus_cons ch d, knownOutcome, writeOutcome]
  split
  · rfl
  · split <;> rfl

theorem withOutcome_writeOutcome (r : ResultPorts) (w : Bool) :
    r.withOutcome (writeOutcome st ch) w =
      { r with
        outcome := if st = STA_OK then .writeOk else if st = STA_AUTH then .keyError else .tagAbsent
        oChan := ch, warn := w } := by
  unfold writeOutcome
  split
  · rfl
  · split <;> rfl

theorem outcomePorts_writeOutcome : outcomePorts (writeOutcome st ch) = [.outcome, .warn, .oChan] := by
  unfold writeOutcome
  split
  · rfl
  · split <;> rfl

end

/-! ## The response parsers as instructions -/

theorem parseResponse_of_parse {cfg : Config} {b : List Byte} {pf : ParsedFrame} {c : Byte} {k : RspKind}
    (h : parseFrame cfg b true = .ok pf) : parseResponse cfg b c k = interpret cfg pf c k := by
  rw [parseResponse, h]

theorem parseResponse_of_parse_error {cfg : Config} {b : List Byte} {e : ErrorKind} {c : Byte} {k : RspKind}
    (h : parseFrame cfg b true = .error e) : parseResponse cfg b c k = .error e := by
  rw [parseResponse, h]

/-- A response frame of the expected command is interpreted as what it was made of (R53, R152). -/
theorem parseResponse_rspFrame {cfg : Config} {c st : Byte} {d : List Byte} (k : RspKind)
    (hd : d.length ≤ 249 + cfg.lenExcl.val) :
    parseResponse cfg (rspFrame cfg c st d) c k = interpret cfg ⟨c, some st, d⟩ c k :=
  parseResponse_of_parse (parseFrame_rspFrame cfg c st d hd)

/-- The two response parsers as instructions, with the command each expects (R151, R153, R154). -/
inductive RespondsAs (cfg : Config) : Instr → Byte → RspKind → Prop
  | read : RespondsAs cfg .rspRead CMD_READ .read
  | write : RespondsAs cfg .rspWrite cfg.writeAckCmd .write

theorem RespondsAs.exec_eq {s : State} {i : Instr} {c : Byte} {k : RspKind} (h : RespondsAs s.cfg i c k) :
    exec i s = .next (s.respondOp c k) := by cases h <;> rfl

section
variable {s : State} {i : Instr} {c st : Byte} {k : RspKind} {d : List Byte}

theorem exec_respond_ok (hi : RespondsAs s.cfg i c k) (hd : d.length ≤ 249 + s.cfg.lenExcl.val)
    (hb : s.ops.ibuf = rspFrame s.cfg c st d) {o : RspOutcome} {w : Bool}
    (h : interpret s.cfg ⟨c, some st, d⟩ c k = .ok (o, w)) :
    exec i s = .next (s.finish (s.res.withOutcome o w) (outcomePorts o)) := by
  rw [hi.exec_eq, State.respondOp_ok (by rw [hb, parseResponse_rspFrame k hd, h])]

theorem exec_respond_error (hi : RespondsAs s.cfg i c k) (hd : d.length ≤ 249 + s.cfg.lenExcl.val)
    (hb : s.ops.ibuf = rspFrame s.cfg c st d) {e : ErrorKind}
    (h : interpret s.cfg ⟨c, some st, d⟩ c k = .error e) : exec i s = .next (s.raise e) := by
  rw [hi.exec_eq, State.respondOp_error (by rw [hb, parseResponse_rspFrame k hd, h])]

end

/-! ## The composite operations and their parts (R72) -/

/-- `FRM.PARSE` of a frame that parses, and of one that does not (R114). -/
theorem exec_frmParse_ok {s : State} {pf : ParsedFrame}
    (h : parseFrame s.cfg s.ops.ibuf s.ops.esIn = .ok pf) :
    exec .frmParse s = .next (s.finish (s.res.withParsed pf) (parsedPorts pf)) :=
  congrArg Host.Outcome.next (State.parseOp_ok h)

theorem exec_frmParse_error {s : State} {e : ErrorKind}
    (h : parseFrame s.cfg s.ops.ibuf s.ops.esIn = .error e) : exec .frmParse s = .next (s.raise e) :=
  congrArg Host.Outcome.next (State.parseOp_error h)

/-- `REC.DECODE` of bytes that decode, and of bytes that do not (R100). -/
theorem exec_recDecode_ok {s : State} {d : TagRecord} {w : Bool}
    (h : decodeRecord s.cfg s.ops.ibuf = .ok (d, w)) :
    exec .recDecode s = .next (s.finish { s.res with dRec := d, warn := w } [.dRec, .warn]) := by
  simp [exec, execRecDecode, h]

theorem exec_recDecode_error {s : State} {e : ErrorKind} (h : decodeRecord s.cfg s.ops.ibuf = .error e) :
    exec .recDecode s = .next (s.raise e) := by
  simp [exec, execRecDecode, h]

/-- `BCC.VERIFY` compares what `BCC.COMPUTE` gives with the claim (R82). -/
theorem bccVerify_expansion {s : State} (h : s.ops.ibuf ≠ []) :
    ∃ u, exec .bccCompute s = .next u ∧
      exec .bccVerify s = .next { s with res := { s.res with
        okBit := decide (u.res.bccOut = s.ops.claim), err := none, held := [.err, .okBit] } } := by
  have hl : s.ilen ≠ 0 := by simpa [State.ilen] using h
  exact ⟨_, execBccCompute_next_iff.2 ⟨hl, rfl⟩, execBccVerify_next_iff.2 ⟨hl, rfl⟩⟩

/-- The end of a build does not look at the operand ports. -/
theorem State.emitOp_withOps (s : State) (o : OperandPorts) (x : Except ErrorKind (List Byte)) :
    s.emitOp x = { s with res := (({ s with ops := o } : State).emitOp x).res } := by cases x <;> rfl

section
variable {s : State} (h : 0 ≤ s.ops.chanIn ∧ s.ops.chanIn ≤ 7)
include h

/-- `CMD.READ` of a valid channel is `FRM.BUILD` of the channel byte (R141). -/
theorem cmdRead_expansion :
    ∃ u, exec .frmBuild { s with
        ops := { s.ops with cmdIn := 0x11, ibuf := [BitVec.ofInt 8 s.ops.chanIn] } } = .next u ∧
      exec .cmdRead s = .next { s with res := u.res } := by
  refine ⟨_, rfl, ?_⟩
  rw [exec, execCmdRead, readCommand_of_valid h]
  exact congrArg Host.Outcome.next (s.emitOp_withOps _ _)

/-- `CMD.WRITE` of a valid channel is `REC.ENCODE`, then `FRM.BUILD` of the channel byte and the image
(R142). -/
theorem cmdWrite_expansion :
    ∃ u, exec .recEncode s = .next u ∧
      (u.res.err ≠ none → exec .cmdWrite s = .next u) ∧
      (u.res.err = none →
        ∃ v, exec .frmBuild { s with ops := { s.ops with
            cmdIn := 0x12, ibuf := BitVec.ofInt 8 s.ops.chanIn :: u.res.obuf } } = .next v ∧
          exec .cmdWrite s = .next { s with res := v.res }) := by
  refine ⟨s.emitOp (encodeRecord s.cfg s.ops.record), rfl, ?_⟩
  by_cases hr : s.ops.record.Fits
  · rw [(encodeRecord_ok_iff _ _ _).2 ⟨hr, rfl⟩]
    refine ⟨fun he => absurd rfl he, fun _ => ⟨_, rfl, ?_⟩⟩
    rw [exec, execCmdWrite, writeCommand_of_fits h hr]
    exact congrArg Host.Outcome.next (s.emitOp_withOps _ _)
  · rw [(encodeRecord_error_iff _ _ _).2 ⟨hr, rfl⟩]
    refine ⟨fun _ => ?_, nofun⟩
    rw [exec, execCmdWrite, writeCommand_of_overflow h hr]

end

/-- A frame that parses with a status shows all its parts on `P.*` (R114). -/
theorem parsedFrame_on_ports {cfg : Config} {b : List Byte} {pf : ParsedFrame}
    (h : parseFrame cfg b true = .ok pf) (r : ResultPorts) :
    (⟨(r.withParsed pf).pCmd, some (r.withParsed pf).pSta, (r.withParsed pf).pData⟩ : ParsedFrame) = pf := by
  obtain ⟨hst, -⟩ := parseFrame_eq_ok_iff.1 h
  obtain ⟨c, _ | st, d⟩ := pf
  · cases hst
  · rfl

/-! ## The obligations -/

/-- Settles O43, by the status and the data of the response. -/
theorem rspReadOfAnyReadResponse : Obligations.RspReadOfAnyReadResponse := by
  refine ⟨rfl, fun s st d hd hb => ?_⟩
  have ok := @exec_respond_ok s _ _ st _ d .read hd hb
  have error := @exec_respond_error s _ _ st _ d .read hd hb
  refine ⟨fun h => ok (interpret_unknownStatus h), ?_, ?_⟩
  · rintro h rfl
    exact error (interpret_noData h)
  · rintro ch img rfl
    refine ⟨?_, ?_, ?_, ?_⟩
    · rintro rfl h
      have hr := (decodeRecord_ok_iff s.cfg img _ _).2 ⟨h, rfl, rfl⟩
      exact ok ((interpret_knownStatus (by decide)).trans (knownOutcome_read_ok hr))
    · rintro rfl h
      have hr := (decodeRecord_error_iff s.cfg img _).2 ⟨h, rfl⟩
      exact error ((interpret_knownStatus (by decide)).trans (knownOutcome_read_ok_error hr))
    · rintro rfl
      exact ok ((interpret_knownStatus (by decide)).trans knownOutcome_read_auth)
    · rintro rfl
      exact ok ((interpret_knownStatus (by decide)).trans knownOutcome_read_notag)

/-- Settles O44, by the status and the data of the acknowledgement. -/
theorem rspWriteOfAnyWriteResponse : Obligations.RspWriteOfAnyWriteResponse := by
  refine ⟨rfl, fun s st d hd hb => ?_⟩
  refine ⟨fun h => exec_respond_ok .write hd hb (interpret_unknownStatus h), ?_, ?_⟩
  · rintro h rfl
    exact exec_respond_error .write hd hb (interpret_noData h)
  · rintro ch more rfl h
    rw [exec_respond_ok .write hd hb ((interpret_knownStatus h).trans knownOutcome_write),
      withOutcome_writeOutcome, outcomePorts_writeOutcome]
    rfl

/-- Settles O42, one expansion per composite operation; the last clause opens the record decoder inside
`Interpret`. -/
theorem compositeOperationsEqualTheirExpansions : Obligations.CompositeOperationsEqualTheirExpansions := by
  refine ⟨fun s => bccVerify_expansion, fun s h => ?_, fun s h0 h7 => ?_, fun s i c k hi => ?_,
    fun s ch img => ?_⟩
  · rw [exec, execCmdRead, readCommand_of_invalid h, exec, execCmdWrite, writeCommand_of_invalid h]
    exact ⟨rfl, rfl⟩
  · exact ⟨cmdRead_expansion ⟨h0, h7⟩, cmdWrite_expansion ⟨h0, h7⟩⟩
  · have hr : RespondsAs s.cfg i c k := by
      obtain ⟨rfl, rfl, rfl⟩ | ⟨rfl, rfl, rfl⟩ := hi
      · exact .read
      · exact .write
    rw [hr.exec_eq]
    cases hp : parseFrame s.cfg s.ops.ibuf true with
    | error e =>
      refine ⟨_, exec_frmParse_error hp, fun _ => ?_, nofun⟩
      rw [State.respondOp_error (parseResponse_of_parse_error hp)]
      rfl
    | ok pf =>
      refine ⟨_, exec_frmParse_ok hp, fun he => absurd rfl he, fun _ => ?_⟩
      rw [State.finish_res, parsedFrame_on_ports hp s.res]
      refine ⟨fun e h => ?_, fun o w h => ?_⟩
      · rw [State.respondOp_error ((parseResponse_of_parse hp).trans h)]
        rfl
      · rw [State.respondOp_ok ((parseResponse_of_parse hp).trans h)]
        cases o <;> rfl
  · cases hd : decodeRecord s.cfg img with
    | error e =>
      refine ⟨_, exec_recDecode_error hd, ?_, nofun⟩
      rintro _ ⟨⟩
      exact (interpret_knownStatus (by decide)).trans (knownOutcome_read_ok_error hd)
    | ok p =>
      refine ⟨_, exec_recDecode_ok hd, nofun, fun _ => ?_⟩
      exact (interpret_knownStatus (by decide)).trans (knownOutcome_read_ok hd)

end Sys2Proof.Machine
end

section
/-! The frame rows as instructions (R64, R67; log 6): the bytes each is decoded from, and how a frame that is
whole and right ends. A row is its operation run on the frame (O47), so each follows from what that operation
makes of a built frame or of a response frame. -/

namespace Sys2Proof.Machine

/-! ## Frames written out byte by byte -/

theorem xorAll_singleton (x : Byte) : xorAll [x] = x := by simp

theorem ofNat_of_toNat_add_eq {len : Byte} {e n : Nat} (h : len.toNat + e = n) :
    BitVec.ofNat 8 (n - e) = len := by
  rw [← h, Nat.add_sub_cancel, BitVec.ofNat_toNat, BitVec.setWidth_eq]

section
variable {cfg : Config} {len c st x : Byte} {d : List Byte}

/-- The frame a build answers, from its length byte and its checksum (R51, R110). -/
theorem buildFrame_eq_written (hlen : len.toNat + cfg.lenExcl.val = d.length + 5)
    (hx : x = bcc [HEADER, len, c] ^^^ xorAll d) :
    buildFrame cfg c d = .ok (HEADER :: len :: c :: (d ++ [x, TERM])) := by
  refine (buildFrame_ok_iff cfg c d _).2 ⟨by have := len.isLt; omega, ?_⟩
  rw [ofNat_of_toNat_add_eq hlen, bcc_append, ← hx]
  rfl

/-- The frame a module would send, from its length byte and its checksum (R53). -/
theorem written_eq_rspFrame (hlen : len.toNat + cfg.lenExcl.val = d.length + 6)
    (hx : x = bcc [HEADER, len, c, st] ^^^ xorAll d) :
    HEADER :: len :: c :: st :: (d ++ [x, TERM]) = rspFrame cfg c st d := by
  rw [rspFrame, ofNat_of_toNat_add_eq hlen, bcc_append, ← hx]
  rfl

/-- A response with the channel byte alone, with the decided `LEN_EXCL` (R64). -/
theorem written_channel_eq_rspFrame (h0 : cfg.lenExcl = 0) {ch : Byte}
    (hx : x = bcc [HEADER, 0x07, c, st] ^^^ ch) :
    [HEADER, 0x07, c, st, ch, x, TERM] = rspFrame cfg c st [ch] :=
  written_eq_rspFrame (d := [ch]) (by rw [h0]; rfl) (by rw [xorAll_singleton, hx])

/-- A response with the channel byte and a record image, with the decided `LEN_EXCL` (R64). -/
theorem written_image_eq_rspFrame (h0 : cfg.lenExcl = 0) {ch : Byte} {img : List Byte}
    (himg : img.length = 112) (hx : x = bcc [HEADER, 0x77, c, st] ^^^ ch ^^^ xorAll img) :
    [HEADER, 0x77, c, st, ch] ++ img ++ [x, TERM] = rspFrame cfg c st (ch :: img) :=
  written_eq_rspFrame (d := ch :: img) (by rw [h0, List.length_cons, himg]; rfl)
    (by rw [xorAll_cons, ← BitVec.xor_assoc, hx])

/-- A response frame with the decided `LEN_EXCL`, its checksum as computed (R53). -/
theorem written_eq_rspFrame_of_zero (h0 : cfg.lenExcl = 0) (c st : Byte) (hd : d.length ≤ 249) :
    HEADER :: BitVec.ofNat 8 (d.length + 6) :: c :: st ::
        (d ++ [bcc ([HEADER, BitVec.ofNat 8 (d.length + 6), c, st] ++ d), TERM]) = rspFrame cfg c st d := by
  refine written_eq_rspFrame ?_ (bcc_append _ d)
  rw [h0, BitVec.toNat_ofNat, Nat.mod_eq_of_lt (by omega)]
  rfl

end

/-! ## The obligations -/

/-- Settles O47, each row by evaluating its arm. -/
theorem frameRowsRunTheirOperation : Obligations.FrameRowsRunTheirOperation := by
  intro s a b c tail
  exact ⟨rfl, rfl, rfl, rfl, rfl, rfl, rfl, rfl, rfl, rfl, rfl, rfl⟩

/-- Settles O48: the two frames of R64 are those `BuildFrame` builds, and a built frame parses. -/
theorem commandFrameRowsComplete : Obligations.CommandFrameRowsComplete := by
  refine ⟨fun ch tail => ⟨rfl, rfl⟩, fun s ch h0 => ⟨?_, fun img himg => ?_⟩⟩
  · have hb : buildFrame s.cfg CMD_READ [ch] = .ok [0xEF, 0x06, 0x11, ch, 0x07 ^^^ ch, 0xFE] :=
      buildFrame_eq_written (by rw [h0]; rfl) (by rw [xorAll_singleton]; rfl)
    exact exec_frmParse_ok (s := s.present _ false 6) (parseFrame_of_buildFrame hb)
  · have hb : buildFrame s.cfg CMD_WRITE (ch :: img) =
        .ok ([0xEF, 0x76, 0x12, ch] ++ img ++ [0x74 ^^^ ch ^^^ xorAll img, 0xFE]) :=
      buildFrame_eq_written (by rw [h0, List.length_cons, himg]; rfl)
        (by rw [xorAll_cons, ← BitVec.xor_assoc]; rfl)
    exact exec_frmParse_ok (s := s.present _ false 6) (parseFrame_of_buildFrame hb)

/-- Settles O49: the frames of R64 are response frames, and `RSP.READ` of any response frame is known
(O43). -/
theorem readResponseRowsComplete : Obligations.ReadResponseRowsComplete := by
  refine ⟨fun len tail => ⟨rfl, rfl, rfl, fun st h => congrArg Except.ok
    (decodeRspFrame_readRspUnknown len st tail (isKnownStatus_of_gt h))⟩, fun s ch h0 => ?_⟩
  have read (f : List Byte) (st : Byte) (d : List Byte) (hd : d.length ≤ 249) :=
    rspReadOfAnyReadResponse.2 (s.present f true 9) st d (hd.trans (Nat.le_add_right _ _))
  refine ⟨fun img himg => ?_, ?_, ?_, fun st d hst hd => ?_⟩
  · obtain ⟨-, -, hknown⟩ := read _ STA_OK (ch :: img) (by simp [himg])
      (written_image_eq_rspFrame (x := 0x76 ^^^ ch ^^^ xorAll img) h0 himg rfl)
    obtain ⟨hok, -⟩ := hknown ch img rfl
    have := hok rfl himg.ge
    rw [himg] at this
    exact this
  · obtain ⟨-, -, hknown⟩ := read _ STA_AUTH [ch] (by simp)
      (written_channel_eq_rspFrame (x := 0x07 ^^^ ch) h0 rfl)
    obtain ⟨-, -, hauth, -⟩ := hknown ch [] rfl
    exact hauth rfl
  · obtain ⟨-, -, hknown⟩ := read _ STA_NOTAG [ch] (by simp)
      (written_channel_eq_rspFrame (x := 0x04 ^^^ ch) h0 rfl)
    obtain ⟨-, -, -, hnotag⟩ := hknown ch [] rfl
    exact hnotag rfl
  · have hf := written_eq_rspFrame_of_zero h0 CMD_READ st hd
    obtain ⟨hunknown, -⟩ := read _ st d hd hf
    rw [← hf]
    exact hunknown hst

/-- Settles O50: the frames of R64 are response frames, and `RSP.WRITE` of any response frame is known
(O44). -/
theorem writeResponseRowsComplete : Obligations.WriteResponseRowsComplete := by
  refine ⟨fun len tail => ⟨rfl, rfl, rfl, fun st h => congrArg Except.ok
    (decodeRspFrame_writeRspUnknown len st tail (isKnownStatus_of_gt h))⟩, fun s ch h0 hack => ?_⟩
  have write (f : List Byte) (st : Byte) (d : List Byte) (hd : d.length ≤ 249)
      (hf : f = rspFrame s.cfg CMD_WRITE st d) :=
    rspWriteOfAnyWriteResponse.2 (s.present f true 10) st d (hd.trans (Nat.le_add_right _ _))
      (by rw [State.present_cfg, hack]; exact hf)
  have known (st x : Byte) (hst : st.toNat ≤ 2) (hx : x = bcc [HEADER, 0x07, CMD_WRITE, st] ^^^ ch) := by
    obtain ⟨-, -, hknown⟩ := write _ st [ch] (by simp) (written_channel_eq_rspFrame h0 hx)
    exact hknown ch [] rfl hst
  refine ⟨known STA_OK _ (by decide) rfl, known STA_AUTH _ (by decide) rfl,
    known STA_NOTAG _ (by decide) rfl, fun st d hst hd => ?_⟩
  have hf := written_eq_rspFrame_of_zero h0 CMD_WRITE st hd
  obtain ⟨hunknown, -⟩ := write _ st d hd hf
  rw [← hf]
  exact hunknown hst

/-- Settles O51: both kinds of frame parse into their parts, under every setting of the parameters. -/
theorem genericFrameRowsComplete : Obligations.GenericFrameRowsComplete := by
  refine ⟨fun len c x tail => ⟨fun hr hw => ?_, fun hr hw => ?_⟩,
    fun s len c x tail => ⟨fun p _ hb => ?_, fun d hd hf => ?_⟩⟩
  · rw [decode_command, decodeCmdFrame_generic len c x tail
      ((isFixedCommandPrefix_eq_false_iff len c).2 ⟨hr, hw⟩)]
  · rw [decode_response, decodeRspFrame_generic len c x tail hr hw]
  · exact exec_frmParse_ok (s := s.present _ false 6) (parseFrame_of_buildFrame hb)
  · have hp := parseFrame_rspFrame s.cfg c x d hd
    rw [hf] at hp
    exact exec_frmParse_ok (s := s.present _ true 6) hp

end Sys2Proof.Machine
end

section
/-! The checksum (R80 to R85): its streaming forms, which changes leave the exclusive-or of a sequence as it
was, and what `BCC.COMPUTE` and `BCC.VERIFY` end in. -/

namespace Sys2Proof.Machine

/-! ## Streaming (R83) -/

/-- Exclusive-or with a byte undoes itself. -/
theorem xor_eq_iff_eq_xor {a b c : Byte} : a ^^^ b = c ↔ b = a ^^^ c := by
  rw [← BitVec.xor_right_inj a, ← BitVec.xor_assoc, BitVec.xor_self, BitVec.zero_xor]

theorem bcc_singleton (x : Byte) : bcc [x] = ~~~x := by
  rw [bcc, xorAll_singleton]

theorem slice_zero_succ {b : List Byte} {m : Nat} (h : m < b.length) :
    slice b 0 (m + 1) = slice b 0 m ++ [byteAt b m] := by
  rw [byteAt_eq_getElem h]
  exact (List.take_append_getElem h).symm

/-- A checksum byte is right when it brings the exclusive-or to `0xFF` (R83). -/
theorem eq_bcc_iff {a : List Byte} {x : Byte} : x = bcc a ↔ xorAll (a ++ [x]) = 0xFF := by
  have hbcc : bcc a = xorAll a ^^^ 0xFF := BitVec.xor_allOnes.symm
  rw [hbcc, xorAll_append, xorAll_singleton, xor_eq_iff_eq_xor]

/-- Settles O10: a received frame up to its checksum is the covered bytes and one byte more
(`slice_zero_succ`). -/
theorem bccStreams : Obligations.BccStreams := by
  refine ⟨bcc_singleton, fun a x _ => ?_, fun f n hf hn => ?_⟩
  · rw [bcc_append, xorAll_singleton]
  · obtain ⟨m, rfl⟩ : ∃ m, n = m + 2 := ⟨n - 2, by omega⟩
    have hslice : slice f 0 (m + 1) = slice f 0 m ++ [byteAt f m] := slice_zero_succ (by omega)
    rw [Nat.add_sub_cancel, show m + 2 - 1 = m + 1 from rfl, hslice]
    exact eq_bcc_iff

/-! ## What changes the exclusive-or, and what does not (R84) -/

theorem okFlag_eq_true_iff {b : List Byte} {c : Byte} : okFlag b c = true ↔ bcc b = c := beq_iff_eq

/-- A sequence escapes another's checksum exactly when both have the same exclusive-or. -/
theorem okFlag_bcc_iff {a b : List Byte} : okFlag a (bcc b) = true ↔ xorAll a = xorAll b :=
  okFlag_eq_true_iff.trans BitVec.not_inj

theorem xorAll_set_eq_iff {b : List Byte} {i : Nat} {v : Byte} (h : i < b.length) :
    xorAll (b.set i v) = xorAll b ↔ v = byteAt b i := by
  rw [xorAll_set b i v h, xor_eq_iff_eq_xor, BitVec.xor_comm (xorAll b), BitVec.xor_assoc,
    BitVec.xor_self, BitVec.xor_zero]

theorem xorAll_perm {a b : List Byte} (h : a.Perm b) : xorAll a = xorAll b := by
  induction h with
  | nil => rfl
  | cons x _ ih => rw [xorAll_cons, xorAll_cons, ih]
  | swap x y l => simp only [xorAll_cons, ← BitVec.xor_assoc, BitVec.xor_comm y]
  | trans _ _ ih₁ ih₂ => exact ih₁.trans ih₂

/-- The exclusive-or of the byte changes is the change of the exclusive-or. -/
theorem xorAll_zipWith_xor {a b : List Byte} (h : b.length = a.length) :
    xorAll (List.zipWith (· ^^^ ·) a b) = xorAll a ^^^ xorAll b := by
  induction a generalizing b with
  | nil => rw [List.eq_nil_of_length_eq_zero h]; rfl
  | cons x a ih =>
    obtain _ | ⟨y, b⟩ := b
    · cases h
    · simp only [List.zipWith_cons_cons, xorAll_cons, ih (Nat.succ.inj h)]
      ac_rfl

theorem complement_xor_complement (a b : Byte) : ~~~a ^^^ ~~~b = a ^^^ b := by
  rw [← complement_xor, BitVec.xor_comm, ← complement_xor, BitVec.not_not, BitVec.xor_comm]

/-- The same for the checksum: the two complements cancel. -/
theorem xorAll_zipWith_eq_bcc_xor {a b : List Byte} (h : b.length = a.length) :
    xorAll (List.zipWith (· ^^^ ·) a b) = bcc a ^^^ bcc b := by
  rw [xorAll_zipWith_xor h, bcc, bcc, complement_xor_complement]

theorem xorAll_insert_pair (a b : List Byte) (x : Byte) : xorAll (a ++ [x, x] ++ b) = xorAll (a ++ b) := by
  have hpair : xorAll [x, x] = 0#8 := by
    rw [xorAll_cons, xorAll_singleton, BitVec.xor_self]
  simp only [xorAll_append, hpair, BitVec.xor_zero]

/-- Settles O11: what verifies is what keeps the exclusive-or (`okFlag_bcc_iff`). -/
theorem bccDetectionLaws : Obligations.BccDetectionLaws := by
  refine fun b _ => ⟨okFlag_bcc_iff.2 rfl, fun i v hi hv => ?_, fun c hc => ?_, fun b' c hl => ?_,
    fun b' hp => okFlag_bcc_iff.2 (xorAll_perm hp), fun x k => okFlag_bcc_iff.2 ?_⟩
  · exact Bool.eq_false_iff.2 fun h => hv ((xorAll_set_eq_iff hi).1 (okFlag_bcc_iff.1 h))
  · exact Bool.eq_false_iff.2 fun h => hc (okFlag_eq_true_iff.1 h).symm
  · rw [okFlag_eq_true_iff, xorAll_zipWith_eq_bcc_xor hl, BitVec.xor_right_inj]
  · rw [xorAll_insert_pair, List.take_append_drop]

/-! ## The two operations (R81, R82, R85) -/

theorem State.ilen_eq_zero_iff {s : State} : s.ilen = 0 ↔ s.ops.ibuf = [] := List.length_eq_zero_iff

/-- Settles O7: what the operation ends in, with `bcc` written out. -/
theorem bccComputeWritesTheComplementedXor : Obligations.BccComputeWritesTheComplementedXor :=
  ⟨rfl, fun _ h => execBccCompute_next_iff.2 ⟨mt State.ilen_eq_zero_iff.1 h, rfl⟩⟩

/-- Settles O8: what the operation ends in, with `okFlag` written out; a false comparison ends no other way. -/
theorem bccVerifyComparesWithTheClaim : Obligations.BccVerifyComparesWithTheClaim :=
  ⟨rfl, fun _ h => execBccVerify_next_iff.2 ⟨mt State.ilen_eq_zero_iff.1 h, rfl⟩⟩

/-- Settles O9: no length is no bytes (`State.ilen_eq_zero_iff`). -/
theorem emptyChecksumInputIsRefused : Obligations.EmptyChecksumInputIsRefused :=
  fun _ h => ⟨if_pos (State.ilen_eq_zero_iff.2 h), if_pos (State.ilen_eq_zero_iff.2 h)⟩

end Sys2Proof.Machine
end

section
/-! The record codec end to end (R94 to R102): what `strip` and the zero fill of a text field do to each other,
which bytes a decoded record depends on, and the two round trips between records and images. -/

namespace Sys2Proof.Machine

/-! ## `strip` and the zero fill of a field (R93, R97) -/

theorem isPad_eq_false_iff (x : Byte) : isPad x = false ↔ x ≠ 0x00 ∧ x ≠ 0x20 := by
  rw [← Bool.not_eq_true, isPad_eq_true_iff, not_or]

/-- Settles O16: the characterisation of `strip` by `isPad`, with the two padding bytes named. -/
theorem stripRemovesTheLongestPaddingSuffix : Obligations.StripRemovesTheLongestPaddingSuffix := by
  intro f t
  simp only [strip_eq_iff, isPad_eq_true_iff, isPad_eq_false_iff]

theorem strip_append_padding {t pad : List Byte} (hpad : ∀ x ∈ pad, isPad x = true) :
    strip (t ++ pad) = strip t := by
  obtain ⟨own, ht, hown, hlast⟩ := (strip_eq_iff t _).1 rfl
  refine (strip_eq_iff _ _).2 ⟨own ++ pad, ?_, List.forall_mem_append.2 ⟨hown, hpad⟩, hlast⟩
  rw [← List.append_assoc, ← ht]

/-- The zero fill of a field is padding, so it is stripped. -/
theorem strip_textField (t : List Byte) (w : Nat) : strip (textField t w) = strip (trunc t w) :=
  strip_append_padding fun x hx => by rw [List.eq_of_mem_replicate hx]; rfl

theorem strip_eq_self_iff (t : List Byte) : strip t = t ↔ ∀ x ∈ t.getLast?, isPad x = false := by
  refine ⟨fun h => ?_, fun h => (strip_eq_iff t t).2 ⟨[], t.append_nil.symm, nofun, h⟩⟩
  obtain ⟨-, -, -, hlast⟩ := (strip_eq_iff t t).1 h
  exact hlast

theorem trunc_eq_self_iff (t : List Byte) (w : Nat) : trunc t w = t ↔ t.length ≤ w :=
  List.take_eq_self_iff t

/-- A text survives a field exactly when it is canonical for it (R101): stripping a cut text cannot give back
the bytes that were cut off. -/
theorem strip_trunc_eq_self_iff (t : List Byte) (w : Nat) : strip (trunc t w) = t ↔ Canonical w t := by
  simp only [Canonical, ← isPad_eq_false_iff, ← strip_eq_self_iff]
  constructor
  · intro h
    have hlen : t.length ≤ w := by
      calc t.length = (strip (trunc t w)).length := by rw [h]
        _ ≤ (trunc t w).length := (List.rdropWhile_prefix isPad _).length_le
        _ ≤ w := List.length_take_le w t
    rw [(trunc_eq_self_iff t w).2 hlen] at h
    exact ⟨hlen, h⟩
  · rintro ⟨hlen, hstrip⟩
    rw [(trunc_eq_self_iff t w).2 hlen, hstrip]

/-! ## What a decoded record depends on (R94, R99) -/

theorem byteAt_take {b : List Byte} {m i : Nat} (h : i < m) : byteAt (b.take m) i = byteAt b i := by
  have hslice : byteAt (slice b 0 m) i = byteAt b (0 + i) := byteAt_slice h
  rwa [Nat.zero_add] at hslice

theorem slice_take {b : List Byte} {m off n : Nat} (h : off + n ≤ m) :
    slice (b.take m) off n = slice b off n := by
  rw [slice, List.drop_take, List.take_take, Nat.min_eq_left (Nat.le_sub_of_add_le' h), slice]

theorem u16Read_take (e : Endian) {b : List Byte} {m off : Nat} (h : off + 1 < m) :
    u16Read e (b.take m) off = u16Read e b off := by
  have hoff : off < m := Nat.lt_of_succ_lt h
  cases e <;> simp only [u16Read, byteAt_take h, byteAt_take hoff]

/-- Every field of a record is read below offset 76 (R60, R94). -/
theorem recordOf_take (cfg : Config) (b : List Byte) : recordOf cfg (b.take 76) = recordOf cfg b := by
  simp [recordOf, u16Read_take, slice_take, W_MANUF, W_MATERIAL, W_COLOR]

/-- Settles O17: both records are the record of the same 76 bytes (`recordOf_take`). -/
theorem decodeIgnoresReservedAndSurplus : Obligations.DecodeIgnoresReservedAndSurplus := by
  intro cfg b b' hb hb' htake
  have hsame : recordOf cfg b = recordOf cfg b' := by
    rw [← recordOf_take, htake, recordOf_take]
  exact ⟨recordOf cfg b, (decodeRecord_ok_iff cfg b _ _).2 ⟨hb, rfl, rfl⟩,
    (decodeRecord_ok_iff cfg b' _ _).2 ⟨hb', hsame, rfl⟩⟩

/-! ## From a record to its image and back (R101) -/

theorem half_toNat {v : Nat} (h : v ≤ 65535) : (half v).toNat = v :=
  Nat.mod_eq_of_lt (Nat.lt_succ_of_le h)

theorem asOperand_eq_iff (d : TagRecord) (r : RecordOperand) :
    d.asOperand = r ↔ d.version.toNat = r.version ∧ d.manufacturer = r.manufacturer ∧
      d.material = r.material ∧ d.color = r.color ∧ d.diameter.toNat = r.diameter ∧
      d.weight.toNat = r.weight ∧ d.printTemp.toNat = r.printTemp ∧ d.bedTemp.toNat = r.bedTemp ∧
      d.density.toNat = r.density := by
  cases r
  exact Iff.of_eq (RecordOperand.mk.injEq ..)

/-- An image of 112 bytes decodes without a warning. -/
theorem decodeRecord_of_image {cfg : Config} {b : List Byte} (h : b.length = 112) :
    decodeRecord cfg b = .ok (recordOf cfg b, false) :=
  (decodeRecord_ok_iff cfg b _ _).2 ⟨h.ge, rfl, by simp [h]⟩

/-- Settles O18: the parts of the image read back (`recordOf_recordImage`), its texts without the zero fill
(`strip_textField`), and each text is its own strip exactly when it is canonical. -/
theorem decodeOfEncodedRecord : Obligations.DecodeOfEncodedRecord := by
  intro cfg r hfits
  refine ⟨recordImage cfg r, _, (encodeRecord_ok_iff cfg r _).2 ⟨hfits, rfl⟩,
    decodeRecord_of_image (recordImage_length cfg r), ?_⟩
  obtain ⟨hver, hdiam, hweight, hprint, hbed, hdens⟩ := hfits
  simp only [asOperand_eq_iff, recordOf_recordImage, strip_textField, strip_trunc_eq_self_iff,
    half_toNat, hver, hdiam, hweight, hprint, hbed, hdens, true_and, and_true]

/-! ## From an image to its record and back (R102) -/

theorem slice_length {b : List Byte} {off n : Nat} (h : off + n ≤ b.length) : (slice b off n).length = n := by
  rw [slice, List.length_take_of_le]
  rw [List.length_drop]
  omega

theorem slice_append_slice (b : List Byte) (off m n : Nat) :
    slice b off m ++ slice b (off + m) n = slice b off (m + n) := by
  rw [slice, slice, slice, List.take_add, List.drop_drop]

theorem slice_two {b : List Byte} {off : Nat} (h : off + 2 ≤ b.length) :
    slice b off 2 = [byteAt b off, byteAt b (off + 1)] := by
  rw [byteAt_eq_getElem (by omega), byteAt_eq_getElem (by omega), slice,
    List.drop_eq_getElem_cons (by omega), List.drop_eq_getElem_cons (by omega)]
  rfl

/-- A number read and written again gives its two bytes, in either order (R33). -/
theorem u16Bytes_u16Read (e : Endian) {b : List Byte} {off : Nat} (h : off + 2 ≤ b.length) :
    u16Bytes e (u16Read e b off) = slice b off 2 := by
  have hhigh (x y : Byte) : (x ++ y : Half).extractLsb' 8 8 = x := by
    rw [extract_high, ← eq_ofNat_high (append_toNat x y)]
  have hlow (x y : Byte) : (x ++ y : Half).extractLsb' 0 8 = y := by
    rw [extract_low, ← eq_ofNat_low (append_toNat x y)]
  rw [slice_two h]
  cases e <;> simp only [u16Bytes, u16Read, hhigh, hlow]

/-- The zero fill of the first bytes of a field gives the field exactly when its other bytes are zero. -/
theorem textField_eq_self_iff {t f : List Byte} (h : t <+: f) :
    textField t f.length = f ↔ ∀ i, t.length ≤ i → i < f.length → byteAt f i = 0x00 := by
  obtain ⟨rest, rfl⟩ := h
  have hfill : textField t (t ++ rest).length = t ++ rep 0x00 rest.length := by
    simp [textField, pad0, trunc]
  rw [hfill, List.append_right_inj, eq_comm, rep, List.eq_replicate_iff, List.forall_mem_iff_getElem]
  constructor
  · rintro ⟨-, hzero⟩ i hlow hhigh
    obtain ⟨k, rfl⟩ := Nat.exists_eq_add_of_le hlow
    rw [List.length_append, Nat.add_lt_add_iff_left] at hhigh
    rw [byteAt_append_right, byteAt_eq_getElem hhigh, hzero k hhigh]
  · refine fun hzero => ⟨rfl, fun k hk => ?_⟩
    rw [← byteAt_eq_getElem hk, ← byteAt_append_right t]
    exact hzero _ (Nat.le_add_right _ _) (by simpa using hk)

theorem textField_eq_slice_iff {b t : List Byte} {off w : Nat} (hb : off + w ≤ b.length)
    (h : t <+: slice b off w) :
    textField t w = slice b off w ↔ ∀ i, t.length ≤ i → i < w → byteAt b (off + i) = 0x00 := by
  have hself := textField_eq_self_iff h
  rw [slice_length hb] at hself
  exact hself.trans (forall₃_congr fun i _ hi => by rw [byteAt_slice hi])

theorem textField_strip_eq_slice_iff {b : List Byte} {off w : Nat} (hb : off + w ≤ b.length) :
    textField (strip (slice b off w)) w = slice b off w ↔
      ∀ i, (strip (slice b off w)).length ≤ i → i < w → byteAt b (off + i) = 0x00 :=
  textField_eq_slice_iff hb (List.rdropWhile_prefix isPad _)

/-- The reserved bytes are those of the field of an empty text (R63). -/
theorem rep_eq_slice_iff {b : List Byte} {off w : Nat} (hb : off + w ≤ b.length) :
    rep 0x00 w = slice b off w ↔ ∀ i, off ≤ i → i < off + w → byteAt b i = 0x00 := by
  have hempty : textField [] w = rep 0x00 w := by simp [textField, pad0, trunc]
  rw [← hempty, textField_eq_slice_iff hb List.nil_prefix]
  constructor
  · intro hzero i hlow hhigh
    obtain ⟨k, rfl⟩ := Nat.exists_eq_add_of_le hlow
    exact hzero k k.zero_le (Nat.lt_of_add_lt_add_left hhigh)
  · exact fun hzero k _ hk => hzero _ (Nat.le_add_right _ _) (Nat.add_lt_add_left hk off)

/-- An image comes back from its record exactly when its texts and its reserved bytes do: its numbers always
come back. -/
theorem recordImage_recordOf_eq_iff (cfg : Config) {b : List Byte} (hb : b.length = 112) :
    recordImage cfg (recordOf cfg b).asOperand = b ↔
      textField (strip (slice b 2 16)) 16 = slice b 2 16 ∧
      textField (strip (slice b 18 16)) 16 = slice b 18 16 ∧
      textField (strip (slice b 34 32)) 32 = slice b 34 32 ∧ rep 0x00 36 = slice b 76 36 := by
  constructor
  · intro h
    have hmanuf := slice_recordImage_manufacturer cfg (recordOf cfg b).asOperand
    have hmaterial := slice_recordImage_material cfg (recordOf cfg b).asOperand
    have hcolor := slice_recordImage_color cfg (recordOf cfg b).asOperand
    have hreserved := slice_recordImage_reserved cfg (recordOf cfg b).asOperand
    rw [h] at hmanuf hmaterial hcolor hreserved
    exact ⟨hmanuf.symm, hmaterial.symm, hcolor.symm, hreserved.symm⟩
  · rintro ⟨hmanuf, hmaterial, hcolor, hreserved⟩
    have hnumber {off : Nat} (h : off + 2 ≤ 112) :
        u16Bytes cfg.recEndian (half (u16Read cfg.recEndian b off).toNat) = slice b off 2 := by
      rw [half, BitVec.ofNat_toNat, BitVec.setWidth_eq, u16Bytes_u16Read _ (hb ▸ h)]
    simp only [recordImage, recordOf, TagRecord.asOperand, W_MANUF, W_MATERIAL, W_COLOR, W_RESERVED,
      hmanuf, hmaterial, hcolor, hreserved, hnumber, Nat.reduceAdd, Nat.reduceLeDiff]
    calc _ = slice b 0 112 := by simp only [slice_append_slice b 0]
      _ = b := slice_self hb

/-- The numbers of a decoded record are 16-bit numbers (R102). -/
theorem asOperand_fits (d : TagRecord) : d.asOperand.Fits :=
  ⟨Nat.le_of_lt_succ d.version.isLt, Nat.le_of_lt_succ d.diameter.isLt, Nat.le_of_lt_succ d.weight.isLt,
    Nat.le_of_lt_succ d.printTemp.isLt, Nat.le_of_lt_succ d.bedTemp.isLt, Nat.le_of_lt_succ d.density.isLt⟩

/-- Settles O19: the image comes back when its texts and reserved bytes do (`recordImage_recordOf_eq_iff`), each
of them when the bytes that are filled in were zero. -/
theorem encodeOfDecodedRecord : Obligations.EncodeOfDecodedRecord := by
  intro cfg b hb
  refine ⟨recordOf cfg b, _, decodeRecord_of_image hb,
    (encodeRecord_ok_iff cfg _ _).2 ⟨asOperand_fits _, rfl⟩, ?_⟩
  rw [recordImage_recordOf_eq_iff cfg hb, textField_strip_eq_slice_iff (by omega),
    textField_strip_eq_slice_iff (by omega), textField_strip_eq_slice_iff (by omega),
    rep_eq_slice_iff (by omega)]
  simp only [List.forall_mem_cons, List.not_mem_nil, false_implies, implies_true, true_and, and_assoc,
    Nat.reduceAdd]

/-! ## The two operations (R96, R100) -/

/-- `REC.ENCODE` answers what `encodeRecord` computes from the parameters and `R.*` (R96). -/
theorem exec_recEncode (s : State) :
    exec .recEncode s = .next (s.emitOp (encodeRecord s.cfg s.ops.record)) := rfl

/-- Settles O12: `encodeRecord` answers the image exactly when the numbers fit. -/
theorem recEncodeResult : Obligations.RecEncodeResult := by
  refine ⟨rfl, fun s => ⟨fun hfits => ?_, fun hover => ?_⟩⟩
  · have henc : encodeRecord s.cfg s.ops.record = .ok (recordImage s.cfg s.ops.record) :=
      (encodeRecord_ok_iff _ _ _).2 ⟨hfits, rfl⟩
    refine ⟨_, henc, recordImage_length _ _, ?_⟩
    rw [exec_recEncode, henc, State.emitOp_ok]
  · have henc : encodeRecord s.cfg s.ops.record = .error .fieldOverflow :=
      (encodeRecord_error_iff _ _ _).2 ⟨hover, rfl⟩
    rw [exec_recEncode, henc, State.emitOp_error, State.raise]

/-- Settles O14: `decodeRecord` answers the record exactly when 112 bytes are there. -/
theorem recDecodeResult : Obligations.RecDecodeResult :=
  ⟨rfl, fun _ =>
    ⟨fun h => exec_recDecode_ok ((decodeRecord_ok_iff _ _ _ _).2 ⟨h, rfl, rfl⟩),
      fun h => exec_recDecode_error ((decodeRecord_error_iff _ _ _).2 ⟨h, rfl⟩)⟩⟩

end Sys2Proof.Machine
end

section
/-! What `ParseFrame` answers, by the first of its checks that fails (R113): which error kind each input gets
(O24), what becomes of a built frame (O25), of a part of a frame and of a frame with bytes after it (O26), and
how `FRM.PARSE` shows the answer (O22). -/

namespace Sys2Proof.Machine

/-! ## The checks of R113, in their order -/

section
variable {cfg : Config} {b : List Byte} {es : Bool}

theorem parseFrame_of_empty (h : b.length = 0) : parseFrame cfg b es = .error .incomplete := if_pos h

theorem parseFrame_of_badHeader (h : b.length ≠ 0) (h0 : byteAt b 0 ≠ HEADER) :
    parseFrame cfg b es = .error .malformedResponse := by
  rw [parseFrame, if_neg h, if_pos h0]

theorem parseFrame_of_headerOnly (h : b.length = 1) (h0 : byteAt b 0 = HEADER) :
    parseFrame cfg b es = .error .incomplete := by
  rw [parseFrame, if_neg (by omega), if_neg (not_not.2 h0), if_pos (by omega)]

variable (h2 : 2 ≤ b.length) (h0 : byteAt b 0 = HEADER)
include h2 h0

theorem parseFrame_of_impossibleLength (h : (byteAt b 1).toNat + cfg.lenExcl.val < minFrame es) :
    parseFrame cfg b es = .error .malformedResponse := by
  rw [parseFrame, if_neg (by omega), if_neg (not_not.2 h0), if_neg (by omega)]
  exact if_pos h

theorem parseFrame_of_missing (hm : minFrame es ≤ (byteAt b 1).toNat + cfg.lenExcl.val)
    (h : b.length < (byteAt b 1).toNat + cfg.lenExcl.val) : parseFrame cfg b es = .error .incomplete := by
  rw [parseFrame, if_neg (by omega), if_neg (not_not.2 h0), if_neg (by omega)]
  exact (if_neg (by omega)).trans (if_pos h)

theorem parseFrame_of_surplus (h : (byteAt b 1).toNat + cfg.lenExcl.val < b.length) :
    parseFrame cfg b es = .error .malformedResponse := by
  by_cases hm : (byteAt b 1).toNat + cfg.lenExcl.val < minFrame es
  · exact parseFrame_of_impossibleLength h2 h0 hm
  · rw [parseFrame, if_neg (by omega), if_neg (not_not.2 h0), if_neg (by omega)]
    exact (if_neg hm).trans ((if_neg (by omega)).trans (if_pos h))

end

/-- A sequence of the declared size fails at its last two bytes only (R113, R124). -/
theorem parseFrame_complete_error_kinds {cfg : Config} {b : List Byte} {es : Bool} {e : ErrorKind}
    (h0 : byteAt b 0 = HEADER) (hn : b.length = (byteAt b 1).toNat + cfg.lenExcl.val)
    (hm : minFrame es ≤ b.length) (h : parseFrame cfg b es = .error e) :
    e = .malformedResponse ∨ e = .checksumMismatch := by
  rw [parseFrame_of_complete h0 hn hm] at h
  split at h
  · cases h
    exact .inl rfl
  · split at h <;> cases h
    exact .inr rfl

/-! ## Parts of a frame, and more than a frame -/

section
variable {cfg : Config} {b : List Byte} {es : Bool} {pf : ParsedFrame} (h : parseFrame cfg b es = .ok pf)
include h

/-- Until the last byte is there, bytes are missing (R114). -/
theorem parseFrame_take {k : Nat} (hk : k < b.length) : parseFrame cfg (b.take k) es = .error .incomplete := by
  obtain ⟨-, h0, hn, hm, -⟩ := (parseFrame_ok_iff cfg b es pf).1 h
  have hlen : (b.take k).length = k := List.length_take_of_le hk.le
  match k with
  | 0 => exact parseFrame_of_empty hlen
  | 1 => exact parseFrame_of_headerOnly hlen ((byteAt_take Nat.one_pos).trans h0)
  | k + 2 =>
    have h1 : byteAt (b.take (k + 2)) 1 = byteAt b 1 := byteAt_take (by omega)
    refine parseFrame_of_missing (by omega) ((byteAt_take (by omega)).trans h0) ?_ ?_
    · rwa [h1, ← hn]
    · rwa [h1, ← hn, hlen]

/-- Bytes after the last one are too many (R114). -/
theorem parseFrame_append {c : List Byte} (hc : c ≠ []) :
    parseFrame cfg (b ++ c) es = .error .malformedResponse := by
  obtain ⟨h2, h0, hn, -⟩ := (parseFrame_ok_iff cfg b es pf).1 h
  have hlen : (b ++ c).length = b.length + c.length := List.length_append
  have hpos := List.length_pos_of_ne_nil hc
  refine parseFrame_of_surplus (by omega) ((byteAt_append_left (by omega)).trans h0) ?_
  rw [byteAt_append_left (by omega), ← hn]
  omega

/-! ## The parts on the ports (R112, R114) -/

/-- A parse has a status exactly in mode expectStatus = true, and it is the byte at offset 3. -/
theorem parseFrame_status : pf.status = if es then some (byteAt b 3) else none := by
  obtain ⟨-, -, -, -, -, -, rfl⟩ := (parseFrame_ok_iff cfg b es pf).1 h
  cases es <;> rfl

theorem withParsed_of_parseFrame (r : ResultPorts) :
    r.withParsed pf = { r with
      pCmd := pf.command, pStaValid := es, pSta := if es then byteAt b 3 else r.pSta, pData := pf.data } := by
  rw [ResultPorts.withParsed, parseFrame_status h]
  cases es <;> rfl

theorem parsedPorts_of_parseFrame :
    parsedPorts pf = if es then [.pCmd, .pStaValid, .pSta, .pData, .pDlen]
      else [.pCmd, .pStaValid, .pData, .pDlen] := by
  rw [parsedPorts, parseFrame_status h]
  cases es <;> rfl

end

/-! ## The obligations -/

/-- Settles O24, by the first check that fails; when none of the first six does, the last two bytes decide
(`parseFrame_of_complete`). -/
theorem parseFrameErrorKinds : Obligations.ParseFrameErrorKinds := by
  rintro cfg b es n rfl
  have hmin := minFrame_eq es
  by_cases hempty : b.length = 0
  · rw [parseFrame_of_empty hempty]
    grind
  by_cases hheader : byteAt b 0 = HEADER
  case neg =>
    rw [parseFrame_of_badHeader hempty hheader]
    grind
  by_cases hone : b.length = 1
  · rw [parseFrame_of_headerOnly hone hheader]
    grind
  have h2 : 2 ≤ b.length := by omega
  obtain hlen | hlen := Nat.lt_or_ge ((byteAt b 1).toNat + cfg.lenExcl.val) (minFrame es)
  · rw [parseFrame_of_impossibleLength h2 hheader hlen]
    grind
  obtain hsize | hsize | hsize := Nat.lt_trichotomy b.length ((byteAt b 1).toNat + cfg.lenExcl.val)
  · rw [parseFrame_of_missing h2 hheader hlen hsize]
    grind
  · rw [parseFrame_of_complete hheader hsize (hsize ▸ hlen), ← hsize]
    grind [slice]
  · rw [parseFrame_of_surplus h2 hheader hsize]
    grind

/-- Settles O25: a build that fits answers (`buildFrame_ok_iff`), and what it answers parses. -/
theorem parseOfBuiltFrame : Obligations.ParseOfBuiltFrame := by
  intro cfg c p hp
  have hb := (buildFrame_ok_iff cfg c p _).2 ⟨hp, rfl⟩
  exact ⟨_, hb, by simp, parseFrame_of_buildFrame hb⟩

/-- Settles O26: bytes of a frame that parses are missing (`parseFrame_take`), or there are too many
(`parseFrame_append`). -/
theorem prefixesAreIncompleteAndExtensionsMalformed :
    Obligations.PrefixesAreIncompleteAndExtensionsMalformed :=
  fun _ _ _ _ h => ⟨fun _ => parseFrame_take h, fun _ _ => parseFrame_append h (List.cons_ne_nil _ _)⟩

/-- Settles O22: the ports of a parse, with the mode written out. -/
theorem frmParseResult : Obligations.FrmParseResult := by
  refine ⟨rfl, fun s => ⟨fun pf h => ?_, fun e h => exec_frmParse_error h⟩⟩
  rw [exec_frmParse_ok h, withParsed_of_parseFrame h, parsedPorts_of_parseFrame h]
  cases s.ops.esIn <;> rfl

end Sys2Proof.Machine
end

section
/-! The frames the engine builds (R110, R111, R141, R142): what `FRM.BUILD`, `CMD.READ` and `CMD.WRITE` put on
`OBUF` when their operands are allowed. -/

namespace Sys2Proof.Machine

/-! ## A built frame on `OBUF` -/

/-- The covered bytes of a command frame: header, length, command, payload (R51, R110). -/
def commandBytes (cfg : Config) (c : Byte) (p : List Byte) : List Byte :=
  [HEADER, BitVec.ofNat 8 (p.length + 5 - cfg.lenExcl.val), c] ++ p

theorem buildFrame_of_fits {cfg : Config} {p : List Byte} (c : Byte) (hp : p.length ≤ 250 + cfg.lenExcl.val) :
    buildFrame cfg c p = .ok (sealFrame (commandBytes cfg c p)) :=
  (buildFrame_ok_iff cfg c p _).2 ⟨hp, rfl⟩

theorem State.emitOp_sealFrame (s : State) (h : List Byte) :
    s.emitOp (.ok (sealFrame h)) = { s with
      res := { s.res with obuf := h ++ [bcc h, 0xFE], err := none, held := [.err, .obuf, .olen] } } := rfl

/-- The checksum of a command with one byte of payload, written out (R80). -/
theorem bcc_four (a b c d : Byte) : bcc [a, b, c, d] = ~~~(a ^^^ b ^^^ c ^^^ d) := by
  simp only [bcc, xorAll_cons, xorAll_nil, BitVec.xor_zero, BitVec.xor_assoc]

/-! ## The obligations -/

/-- Settles O20: a payload that fits is built, whatever the command byte. -/
theorem frmBuildWritesTheFrame : Obligations.FrmBuildWritesTheFrame := by
  refine ⟨rfl, fun s hp => ?_⟩
  rw [exec, execFrmBuild, buildFrame_of_fits _ hp, State.emitOp_sealFrame]
  rfl

/-- Settles O38: a valid channel is built as a payload of one byte (`readCommand_of_valid`). -/
theorem cmdReadWritesTheFrame : Obligations.CmdReadWritesTheFrame := by
  refine ⟨rfl, fun s h0 h7 => ?_⟩
  have hp : [channelByte s.ops.chanIn].length ≤ 250 + s.cfg.lenExcl.val := by
    rw [List.length_singleton]
    omega
  rw [exec, execCmdRead, readCommand_of_valid ⟨h0, h7⟩, buildFrame_of_fits _ hp, State.emitOp_sealFrame,
    ← bcc_four]
  rfl

/-- Settles O40: a valid channel and a record that fits are built as a payload of 113 bytes
(`writeCommand_of_fits`). -/
theorem cmdWriteWritesTheFrame : Obligations.CmdWriteWritesTheFrame := by
  refine ⟨rfl, fun s h0 h7 hr => ?_⟩
  have hlen : (channelByte s.ops.chanIn :: recordImage s.cfg s.ops.record).length = 113 := by simp
  have henc := (encodeRecord_ok_iff s.cfg s.ops.record _).2 ⟨hr, rfl⟩
  refine ⟨_, _, henc, rfl, ?_⟩
  rw [exec, execCmdWrite, writeCommand_of_fits ⟨h0, h7⟩ hr, buildFrame_of_fits _ (by omega),
    State.emitOp_sealFrame, commandBytes, hlen]
  rfl

end Sys2Proof.Machine
end

section
/-! One byte into the deframer (R121 to R126, R130): what each state of it makes of each kind of byte, and what an
error leaves of the results, there and in a one-shot operation (R180). -/

namespace Sys2Proof.Machine

/-! ## `DFR.FEED`, by the state of the session -/

theorem execDfrFeed_of_noSession {s : State} (h : s.df.inited = false) :
    execDfrFeed s = .refused .feedBeforeInit := by
  rw [execDfrFeed, if_neg (Bool.eq_false_iff.1 h)]

section
variable {s : State} (hini : s.df.inited = true)
include hini

theorem execDfrFeed_of_awaitingHeader (hs : s.df.state = .awaitingHeader) :
    execDfrFeed s = .next s.feedHeader := by
  rw [execDfrFeed, if_pos hini, hs]

theorem execDfrFeed_of_awaitingLength (hs : s.df.state = .awaitingLength) :
    execDfrFeed s = .next s.feedLength := by
  rw [execDfrFeed, if_pos hini, hs]

theorem execDfrFeed_of_awaitingBody (hs : s.df.state = .awaitingBody) : execDfrFeed s = s.feedBody := by
  rw [execDfrFeed, if_pos hini, hs]

end

/-! ## Each kind of byte -/

/-- A byte before a header is waited past, or begins a frame; the caller sees the same (R122). -/
theorem State.feedHeader_eq (s : State) :
    s.feedHeader = { s with df := s.feedHeader.df }.feedEvent .incomplete .incomplete := by
  unfold State.feedHeader
  split <;> rfl

section
variable {s : State}

theorem State.feedLength_of_impossible (h : s.ops.rx.toNat + s.cfg.lenExcl.val < minFrame s.df.es) :
    s.feedLength = { s with df := { s.df with cnt := 0, state := .awaitingHeader } }.feedEvent
      .error .malformedResponse := if_pos h

theorem State.feedLength_of_possible (h : minFrame s.df.es ≤ s.ops.rx.toNat + s.cfg.lenExcl.val) :
    s.feedLength = { s with df := { s.df with
      buf := Memory.write s.df.buf 1 s.ops.rx, len := s.ops.rx, cnt := 2, state := .awaitingBody } }.feedEvent
      .incomplete .incomplete := if_neg (Nat.not_lt.2 h)

theorem State.feedBody_of_more (hmax : s.df.cnt < s.cfg.maxFrame)
    (h : s.df.cnt + 1 < s.df.len.toNat + s.cfg.lenExcl.val) :
    s.feedBody = .next (s.storeBody.feedEvent .incomplete .incomplete) := by
  rw [State.feedBody, if_pos hmax]
  exact if_pos h

theorem State.feedBody_of_last (hmax : s.df.cnt < s.cfg.maxFrame)
    (h : s.df.len.toNat + s.cfg.lenExcl.val ≤ s.df.cnt + 1) {f : List Byte}
    (hf : Memory.readRange s.storeBody.df.buf 0 (s.df.cnt + 1) = some f) :
    s.feedBody = .next (s.storeBody.endFrame f) := by
  rw [State.feedBody, if_pos hmax]
  refine (if_neg (Nat.not_lt.2 h)).trans ?_
  rw [show Memory.readRange s.storeBody.df.buf 0 s.storeBody.df.cnt = some f from hf]

theorem State.endFrame_of_ok {f : List Byte} {pf : ParsedFrame} (h : parseFrame s.cfg f s.df.es = .ok pf) :
    s.endFrame f = { s with df := { s.df with cnt := 0, state := .awaitingHeader } }.feedFrame pf := by
  rw [State.endFrame, h]

theorem State.endFrame_of_error {f : List Byte} {e : ErrorKind} (h : parseFrame s.cfg f s.df.es = .error e) :
    s.endFrame f =
      { s with df := { s.df with cnt := 0, state := .awaitingHeader } }.feedEvent .error e := by
  rw [State.endFrame, h]

/-- The stored bytes are judged only once they begin and are counted as a frame, so the one thing that can still
be wrong is their end (R124). -/
theorem parseFrame_stored_error_kinds (hi : Deframer.Inv s.cfg s.df) (hs : s.df.state = .awaitingBody)
    (hlast : s.df.len.toNat + s.cfg.lenExcl.val ≤ s.df.cnt + 1) {f : List Byte}
    (hf : Memory.readRange s.storeBody.df.buf 0 (s.df.cnt + 1) = some f) {e : ErrorKind}
    (he : parseFrame s.cfg f s.df.es = .error e) : e = .malformedResponse ∨ e = .checksumMismatch := by
  obtain ⟨-, f', hf', hlen, -, -, h0, h1⟩ := endOfFrame_bytes hi hs
  obtain rfl : f' = f := Option.some.inj (hf'.symm.trans hf)
  obtain ⟨-, -, -, -, -, -, -, hbody⟩ := hi
  obtain ⟨-, hcnt, -, -, hmin⟩ := hbody hs
  exact parseFrame_complete_error_kinds h0 (by rw [h1]; omega) (by omega) he

end

/-! ## The events (R126) -/

/-- The events of a feed and the `ERR` that goes with each (R126). -/
theorem execDfrFeed_event {s t : State} (hi : Deframer.Inv s.cfg s.df) (h : execDfrFeed s = .next t) :
    (t.res.evt = .incomplete ∧ t.res.err = some .incomplete) ∨
    (t.res.evt = .frame ∧ t.res.err = none) ∨
    (t.res.evt = .error ∧ (t.res.err = some .malformedResponse ∨ t.res.err = some .checksumMismatch)) := by
  obtain ⟨-, ⟨-, rfl⟩ | ⟨-, rfl⟩ | ⟨hs, -, ⟨-, rfl⟩ | ⟨hlast, f, hf, rfl⟩⟩⟩ := execDfrFeed_cases h
  · rw [State.feedHeader_eq]
    exact .inl ⟨rfl, rfl⟩
  · obtain hl | hl := Nat.lt_or_ge (s.ops.rx.toNat + s.cfg.lenExcl.val) (minFrame s.df.es)
    · rw [State.feedLength_of_impossible hl]
      exact .inr (.inr ⟨rfl, .inl rfl⟩)
    · rw [State.feedLength_of_possible hl]
      exact .inl ⟨rfl, rfl⟩
  · exact .inl ⟨rfl, rfl⟩
  · cases hp : parseFrame s.cfg f s.df.es with
    | ok pf =>
      rw [State.endFrame_of_ok (s := s.storeBody) hp]
      exact .inr (.inl ⟨rfl, rfl⟩)
    | error e =>
      rw [State.endFrame_of_error (s := s.storeBody) hp]
      obtain rfl | rfl := parseFrame_stored_error_kinds hi hs hlast hf hp
      · exact .inr (.inr ⟨rfl, .inl rfl⟩)
      · exact .inr (.inr ⟨rfl, .inr rfl⟩)

/-- After an `Error` event the deframer waits for the next header (R123, R124). -/
theorem execDfrFeed_df_of_error {s t : State} (h : execDfrFeed s = .next t) (he : t.res.evt = .error) :
    t.df.state = .awaitingHeader ∧ t.df.cnt = 0 := by
  obtain ⟨-, ⟨-, rfl⟩ | ⟨-, rfl⟩ | ⟨-, -, ⟨-, rfl⟩ | ⟨-, f, -, rfl⟩⟩⟩ := execDfrFeed_cases h
  · rw [State.feedHeader_eq] at he
    cases he
  · obtain hl | hl := Nat.lt_or_ge (s.ops.rx.toNat + s.cfg.lenExcl.val) (minFrame s.df.es)
    · rw [State.feedLength_of_impossible hl]
      exact ⟨rfl, rfl⟩
    · rw [State.feedLength_of_possible hl] at he
      cases he
  · cases he
  · rw [State.endFrame_df]
    exact ⟨rfl, rfl⟩

/-! ## What an error writes (R180) -/

theorem State.conclude_res_of_err {s : State} {a : Except ErrorKind Written} {e : ErrorKind}
    (h : (s.conclude a).res.err = some e) :
    (s.conclude a).res = { s.res with err := some e, held := [.err] } := by
  cases a with
  | ok w => cases h
  | error e' =>
    cases h
    rfl

theorem State.FeedEnd.res_of_err {s t : State} {d : Deframer} {e : ErrorKind} (h : s.FeedEnd t d)
    (he : t.res.err = some e) :
    t.res = { s.res with err := some e, evt := t.res.evt, held := [.err, .evt] } := by
  obtain ⟨v, e', -, rfl⟩ | ⟨f, pf, -, rfl⟩ := h
  · cases he
    rfl
  · cases he

/-! ## The obligations -/

/-- Settles O28, by evaluating the operation. -/
theorem dfrInitResult : Obligations.DfrInitResult := ⟨rfl, fun _ => rfl⟩

/-- Settles O29: the session is looked at before anything else. -/
theorem feedBeforeInitIsRefused : Obligations.FeedBeforeInitIsRefused :=
  fun _ => execDfrFeed_of_noSession

/-- Settles O30: the event does not depend on the byte (`State.feedHeader_eq`), the deframer does. -/
theorem feedInAwaitingHeader : Obligations.FeedInAwaitingHeader := by
  refine ⟨rfl, fun s hini hs => ?_⟩
  rw [exec, execDfrFeed_of_awaitingHeader hini hs, State.feedHeader_eq, State.feedHeader_df]
  rfl

/-- Settles O31: a length is impossible or possible. -/
theorem feedInAwaitingLength : Obligations.FeedInAwaitingLength := by
  intro s hini hs
  rw [exec, execDfrFeed_of_awaitingLength hini hs, ← minFrame_eq]
  refine ⟨fun hl => ?_, fun hl => ?_⟩
  · rw [State.feedLength_of_impossible hl]
    rfl
  · rw [State.feedLength_of_possible hl]
    rfl

/-- Settles O32: the invariants say what the buffer holds at the last byte (`endOfFrame_bytes`), and the frame
read from it is judged. -/
theorem feedInAwaitingBody : Obligations.FeedInAwaitingBody := by
  rintro s ⟨hi, -⟩ hini hs
  obtain ⟨hmax, f, hf, hlen, hold, hnew, -⟩ := endOfFrame_bytes hi hs
  rw [exec, execDfrFeed_of_awaitingBody hini hs]
  refine ⟨fun hmore => State.feedBody_of_more hmax hmore, fun hlast => ?_⟩
  obtain ⟨hcfg, hops, hcaller, hreads⟩ := (s.endFrame_end f).frame
  refine ⟨f, _, hlen, hold, hnew, State.feedBody_of_last hmax hlast.ge hf, hcfg, hops, hcaller, hreads,
    State.endFrame_df _ f, fun pf hp => ?_, fun e hp => ?_⟩
  · rw [State.endFrame_of_ok (s := s.storeBody) hp, State.feedFrame_res, parsedPorts_of_parseFrame hp,
      withParsed_of_parseFrame hp]
    cases s.df.es <;> rfl
  · rw [State.endFrame_of_error (s := s.storeBody) hp]
    exact ⟨parseFrame_stored_error_kinds hi hs hlast.ge hf hp, rfl⟩

/-- Settles O35, by what a feed can do (`execDfrFeed_event`). -/
theorem feedEventsAndErrAgree : Obligations.FeedEventsAndErrAgree :=
  fun _ _ ⟨hi, _⟩ h => execDfrFeed_event hi h

/-- Settles O58: an error is one of the two ends of a one-shot operation (`State.conclude`) and of a feed
(`State.FeedEnd`). -/
theorem anErrorWritesErrOnly : Obligations.AnErrorWritesErrOnly := by
  intro i s t e h he
  refine ⟨fun hs => ?_, ?_⟩
  · obtain ⟨a, -, rfl⟩ := (exec_oneShot_next_iff hs).1 h
    exact ⟨State.conclude_res_of_err he, State.conclude_df _ a⟩
  · rintro rfl
    exact ⟨(execDfrFeed_end h).2.2.res_of_err he, execDfrFeed_df_of_error h⟩

end Sys2Proof.Machine
end

section
/-! Bytes into the deframer one after another (R120, R127, R128): stray bytes are dropped (O36), and a frame fed
byte by byte is judged as `ParseFrame` judges it at once (O37). -/

namespace Sys2Proof.Machine

/-! ## Feeding a sequence (R120) -/

theorem feedAll_append {s u : State} {a : List Byte} (h : feedAll s a = .next u) (c : List Byte) :
    feedAll s (a ++ c) = feedAll u c := by
  induction a generalizing s with
  | nil =>
    cases h
    rfl
  | cons x a ih =>
    simp only [List.cons_append, feedAll] at h ⊢
    split at h
    case h_1 => exact ih h
    all_goals cases h

theorem feedAll_singleton {s t : State} {x : Byte} (h : exec .dfrFeed (s.load (.rx x)) = .next t) :
    feedAll s [x] = .next t := by
  simp only [feedAll, h]

theorem feedAll_concat {s u t : State} {a : List Byte} {x : Byte} (h : feedAll s a = .next u)
    (hx : exec .dfrFeed (u.load (.rx x)) = .next t) : feedAll s (a ++ [x]) = .next t :=
  (feedAll_append h [x]).trans (feedAll_singleton hx)

theorem inv_of_feed {s t : State} {x : Byte} (hi : s.Inv) (h : exec .dfrFeed (s.load (.rx x)) = .next t) :
    t.Inv :=
  exec_inv (s := s.load (.rx x)) hi h

/-! ## A frame that is being received -/

/-- From `s`, a session that waits for a header, the bytes `p` have been fed; they begin a frame that is not over:
they are in the buffer, and the caller has been told that more are needed. -/
structure Receiving (s : State) (p : List Byte) (u : State) : Prop where
  fed : feedAll s p = .next u
  inv : u.Inv
  cfg : u.cfg = s.cfg
  es : u.df.es = s.df.es
  inited : u.df.inited = true
  cnt : u.df.cnt = p.length
  stored : ∀ i, i < p.length → Memory.read u.df.buf i = p[i]?
  evt : u.res.evt = .incomplete
  err : u.res.err = some .incomplete

theorem read_write_concat {m : Memory} {p : List Byte} {x : Byte}
    (h : ∀ i, i < p.length → Memory.read m i = p[i]?) (i : Nat) (hi : i < (p ++ [x]).length) :
    Memory.read (Memory.write m p.length x) i = (p ++ [x])[i]? := by
  rw [List.length_append, List.length_singleton] at hi
  obtain hlt | rfl := Nat.lt_or_eq_of_le (Nat.le_of_lt_succ hi)
  · rw [Memory.read_write_other _ _ hlt.ne, h i hlt, List.getElem?_append_left hlt]
  · rw [Memory.read_write_same, List.getElem?_concat_length]

section
variable {s : State}

/-- The header begins a frame (R122). -/
theorem receiving_header (hi : s.Inv) (hini : s.df.inited = true) (hs : s.df.state = .awaitingHeader) :
    ∃ u, Receiving s [HEADER] u ∧ u.df.state = .awaitingLength := by
  have hx := feedInAwaitingHeader.2 (s.load (.rx HEADER)) hini hs
  rw [if_pos (show (s.load (.rx HEADER)).ops.rx = 0xEF from rfl)] at hx
  refine ⟨_, ⟨feedAll_singleton hx, inv_of_feed hi hx, rfl, rfl, hini, rfl, ?_, rfl, rfl⟩, rfl⟩
  exact read_write_concat (p := []) nofun

/-- A possible length goes on with it (R123). -/
theorem Receiving.length {p : List Byte} {u : State} {len : Byte} (h : Receiving s p u)
    (hp : p.length = 1) (hs : u.df.state = .awaitingLength)
    (hlen : minFrame s.df.es ≤ len.toNat + s.cfg.lenExcl.val) :
    ∃ v, Receiving s (p ++ [len]) v ∧ v.df.state = .awaitingBody ∧ v.df.len = len := by
  have hx := (feedInAwaitingLength (u.load (.rx len)) h.inited hs).2
    (by rw [← minFrame_eq, State.load_df, State.load_cfg, h.es, h.cfg]; exact hlen)
  refine ⟨_, ⟨feedAll_concat h.fed hx, inv_of_feed h.inv hx, h.cfg, h.es, h.inited, ?_, ?_, rfl, rfl⟩, rfl, rfl⟩
  · rw [List.length_append, hp]
    rfl
  · have := read_write_concat (x := len) h.stored
    rwa [hp] at this

/-- A body byte that is not the last goes on with it (R124). -/
theorem Receiving.body {p : List Byte} {u : State} {x : Byte} (h : Receiving s p u)
    (hs : u.df.state = .awaitingBody) (hmore : p.length + 1 < u.df.len.toNat + s.cfg.lenExcl.val) :
    ∃ v, Receiving s (p ++ [x]) v ∧ v.df.state = .awaitingBody ∧ v.df.len = u.df.len := by
  have hx := (feedInAwaitingBody (u.load (.rx x)) h.inv h.inited hs).1
    (by rw [State.load_df, State.load_cfg, h.cfg, h.cnt]; exact hmore)
  refine ⟨_, ⟨feedAll_concat h.fed hx, inv_of_feed h.inv hx, h.cfg, h.es, h.inited, ?_, ?_, rfl, rfl⟩, hs, rfl⟩
  · rw [List.length_append, ← h.cnt]
    rfl
  · have := read_write_concat (x := x) h.stored
    rwa [← h.cnt] at this

/-- The header and a possible length are fed, and any number of body bytes before the last (R122 to R124). -/
theorem receiving_append {len : Byte} (hi : s.Inv) (hini : s.df.inited = true)
    (hs : s.df.state = .awaitingHeader) (hlen : minFrame s.df.es ≤ len.toNat + s.cfg.lenExcl.val)
    (body : List Byte) (hmore : body.length + 2 < len.toNat + s.cfg.lenExcl.val) :
    ∃ u, Receiving s (HEADER :: len :: body) u ∧ u.df.state = .awaitingBody ∧ u.df.len = len := by
  induction body using List.reverseRecOn with
  | nil =>
    obtain ⟨u, hu, hus⟩ := receiving_header hi hini hs
    exact hu.length rfl hus hlen
  | append_singleton body x ih =>
    rw [List.length_append, List.length_singleton] at hmore
    obtain ⟨u, hu, hus, hul⟩ := ih (by omega)
    obtain ⟨v, hv, hvs, hvl⟩ := hu.body (x := x) hus (by rw [hul]; exact hmore)
    exact ⟨v, hv, hvs, hvl.trans hul⟩

/-- The last byte has the bytes fed judged as a frame (R124, R127). -/
theorem Receiving.last {p : List Byte} {u : State} {x : Byte} (h : Receiving s p u)
    (hs : u.df.state = .awaitingBody) (hlast : p.length + 1 = u.df.len.toNat + s.cfg.lenExcl.val) :
    ∃ t, feedAll s (p ++ [x]) = .next t ∧ t.df.state = .awaitingHeader ∧ t.df.cnt = 0 ∧
      (∀ pf, parseFrame s.cfg (p ++ [x]) s.df.es = .ok pf →
        t.res.evt = .frame ∧ t.res.err = none ∧ t.res.pCmd = pf.command ∧ t.res.pStaValid = s.df.es ∧
        (∀ st ∈ pf.status, t.res.pSta = st) ∧ t.res.pData = pf.data) ∧
      (∀ e, parseFrame s.cfg (p ++ [x]) s.df.es = .error e →
        (e = .malformedResponse ∨ e = .checksumMismatch) ∧ t.res.evt = .error ∧ t.res.err = some e) := by
  have hbody := feedInAwaitingBody (u.load (.rx x)) h.inv h.inited hs
  simp only [State.load_df, State.load_cfg, State.load_res, State.load_ops, OperandPorts.write_rx, h.cnt,
    h.cfg, h.es] at hbody
  obtain ⟨f, t, hlen, hold, hnew, hx, -, -, -, -, hdf, hok, herr⟩ := hbody.2 hlast
  obtain rfl : f = p ++ [x] := by
    refine List.ext_getElem? fun i => ?_
    obtain hi | rfl | hi := Nat.lt_trichotomy i p.length
    · rw [hold i hi, h.stored i hi, List.getElem?_append_left hi]
    · rw [hnew, List.getElem?_concat_length]
    · rw [List.getElem?_eq_none (by omega), List.getElem?_eq_none (by simp; omega)]
  refine ⟨t, feedAll_concat h.fed hx, by rw [hdf], by rw [hdf], fun pf hpf => ?_, fun e he => ?_⟩
  · rw [hok pf hpf]
    refine ⟨rfl, rfl, rfl, rfl, fun st hst => ?_, rfl⟩
    rw [parseFrame_status hpf] at hst
    cases hes : s.df.es with
    | false => simp [hes] at hst
    | true => simpa [hes] using hst
  · obtain ⟨hkind, hres⟩ := herr e he
    rw [hres]
    exact ⟨hkind, rfl, rfl⟩

end

/-! ## The obligations -/

/-- Settles O36, from the last byte backwards: each byte leaves the deframer to the next as it was (O30). -/
theorem strayBytesAreDropped : Obligations.StrayBytesAreDropped := by
  intro s bytes hini hs hstray
  induction bytes using List.reverseRecOn with
  | nil => exact ⟨s, rfl, rfl, fun h => absurd rfl h⟩
  | append_singleton bytes x ih =>
    obtain ⟨hbytes, hx⟩ := List.forall_mem_append.1 hstray
    obtain ⟨u, hfed, hdf, -⟩ := ih hbytes
    have hfeed := feedInAwaitingHeader.2 (u.load (.rx x)) (by rwa [State.load_df, hdf])
      (by rwa [State.load_df, hdf])
    rw [if_neg (show (u.load (.rx x)).ops.rx ≠ 0xEF from hx x List.mem_cons_self)] at hfeed
    exact ⟨_, feedAll_concat hfed hfeed, hdf, fun _ => ⟨rfl, rfl⟩⟩

/-- Settles O37: up to its last byte a frame with a possible length is being received, and the last has it judged
(`receiving_append`, `Receiving.last`); an impossible length ends it at the second byte (O31). -/
theorem deframerAgreesWithParseFrame : Obligations.DeframerAgreesWithParseFrame := by
  intro s b hi hini hs h2 h0 hn
  obtain ⟨len, rest, rfl⟩ : ∃ len rest, b = HEADER :: len :: rest := by
    match b, h2 with
    | b0 :: len :: rest, _ => exact ⟨len, rest, congrArg (· :: _) h0⟩
  obtain ⟨u, hu, hus⟩ := receiving_header hi hini hs
  change rest.length + 2 = len.toNat + s.cfg.lenExcl.val at hn
  simp only [List.length_cons, hn, ← minFrame_eq]
  refine ⟨fun hpossible => ⟨fun k hk0 hk => ?_, ?_⟩, fun himpossible => ⟨⟨u, hu.fed, hu.evt, hu.err⟩, ?_⟩⟩
  · match k with
    | 1 => exact ⟨u, hu.fed, hu.evt, hu.err⟩
    | k + 2 =>
      have hlen := List.length_take_le k rest
      obtain ⟨v, hv, -⟩ := receiving_append hi hini hs hpossible (rest.take k) (by omega)
      exact ⟨v, hv.fed, hv.evt, hv.err⟩
  · obtain rfl | ⟨body, x, rfl⟩ := rest.eq_nil_or_concat'
    · have := minFrame_eq s.df.es
      rw [List.length_nil] at hn
      omega
    · rw [List.length_append, List.length_singleton] at hn
      obtain ⟨v, hv, hvs, hvl⟩ := receiving_append hi hini hs hpossible body (by omega)
      exact hv.last hvs (by rw [hvl, ← hn]; rfl)
  · have hx := (feedInAwaitingLength (u.load (.rx len)) hu.inited hus).1
      (by rw [← minFrame_eq, State.load_df, State.load_cfg, hu.es, hu.cfg]; exact himpossible)
    have hfed := feedAll_concat hu.fed hx
    exact ⟨_, hfed, rfl, rfl, rfl, rfl, feedAll_append hfed rest⟩

end Sys2Proof.Machine
end

section
/-! The command builders' error cases (R140, R143, R173, R182), and the eight read commands with the decided
length convention (R145). -/

namespace Sys2Proof.Machine

/-- A record that does not fit stops `CMD.WRITE` of a valid channel (R142, R173). -/
theorem exec_cmdWrite_of_overflow {s : State} (h : 0 ≤ s.ops.chanIn ∧ s.ops.chanIn ≤ 7)
    (hr : ¬ s.ops.record.Fits) : exec .cmdWrite s = .next (s.raise .fieldOverflow) := by
  rw [exec, execCmdWrite, writeCommand_of_overflow h hr, State.emitOp_error]

/-- `EF`, `06` and `11` leave the low three bits of the checksum to the channel alone, where the complement is
the distance from 7 (R80, R145). -/
theorem readCommand_checksum {c : Nat} (hc : c < 8) :
    ~~~(0xEF ^^^ 0x06 ^^^ 0x11 ^^^ BitVec.ofNat 8 c) = BitVec.ofNat 8 (7 - c) := by
  revert c
  decide

/-! ## The obligations -/

/-- Settles O41: an invalid channel stops both builders (O42); with a valid one `CMD.READ` ends with no error
(O38), and so does `CMD.WRITE` of a record that fits (O40), while one that does not fit is a `FieldOverflow`
(`exec_cmdWrite_of_overflow`). -/
theorem commandBuilderErrors : Obligations.CommandBuilderErrors := by
  obtain ⟨-, hinvalid, -⟩ := compositeOperationsEqualTheirExpansions
  refine fun s => ⟨fun h => hinvalid s (by omega), fun h0 h7 => ⟨?_, exec_cmdWrite_of_overflow ⟨h0, h7⟩⟩⟩
  rintro t (hread | hwrite)
  · cases (cmdReadWritesTheFrame.2 s h0 h7).symm.trans hread
    nofun
  · by_cases hr : s.ops.record.Fits
    · obtain ⟨e, f, -, -, hbuilt⟩ := cmdWriteWritesTheFrame.2 s h0 h7 hr
      cases hbuilt.symm.trans hwrite
      nofun
    · cases (exec_cmdWrite_of_overflow ⟨h0, h7⟩ hr).symm.trans hwrite
      nofun

/-- Settles O39: the frame of O38 with `LEN_EXCL = 0`, its checksum evaluated (`readCommand_checksum`). -/
theorem allReadCommands : Obligations.AllReadCommands := by
  intro s c hlen hc hchan
  refine ⟨_, cmdReadWritesTheFrame.2 s (by omega) (by omega), rfl, ?_⟩
  have hch : BitVec.ofInt 8 s.ops.chanIn = BitVec.ofNat 8 c := by rw [hchan, BitVec.ofInt_natCast]
  rw [← readCommand_checksum hc, hlen, hch]
  rfl

end Sys2Proof.Machine
end

section
/-! Responses that are not interpreted (R151, R155), and frames with one byte changed (R163): which check of
R113 each changed byte fails. -/

namespace Sys2Proof.Machine

/-! ## A response parser that ends in an error -/

theorem exec_respond_of_parse_error {s : State} {i : Instr} {c : Byte} {k : RspKind} {e : ErrorKind}
    (hi : RespondsAs s.cfg i c k) (h : parseFrame s.cfg s.ops.ibuf true = .error e) :
    exec i s = .next (s.raise e) := by
  rw [hi.exec_eq, State.respondOp_error (parseResponse_of_parse_error h)]

theorem exec_respond_of_unexpected {s : State} {i : Instr} {c : Byte} {k : RspKind} {pf : ParsedFrame}
    (hi : RespondsAs s.cfg i c k) (h : parseFrame s.cfg s.ops.ibuf true = .ok pf) (hc : pf.command ≠ c) :
    exec i s = .next (s.raise .malformedResponse) := by
  rw [hi.exec_eq, State.respondOp_error ((parseResponse_of_parse h).trans (interpret_unexpected hc))]

/-! ## A byte replaced -/

theorem byteAt_set_same {b : List Byte} {i : Nat} (v : Byte) (h : i < b.length) : byteAt (b.set i v) i = v := by
  rw [byteAt_eq_getElem (by rwa [List.length_set]), List.getElem_set_self]

theorem byteAt_set_other (b : List Byte) {i j : Nat} (v : Byte) (h : i ≠ j) :
    byteAt (b.set i v) j = byteAt b j := by
  rw [byteAt, List.getD_eq_getElem?_getD, List.getElem?_set_ne h, ← List.getD_eq_getElem?_getD, byteAt]

theorem slice_zero_set (b : List Byte) (i n : Nat) (v : Byte) :
    slice (b.set i v) 0 n = (slice b 0 n).set i v :=
  List.take_set

/-- The receiver's sum to `0xFF` (R83) covers the checksum byte too, so it tells any single change before the
terminator, by `xorAll_set_eq_iff`. -/
theorem checksum_set_ne {b : List Byte} {i : Nat} {v : Byte} (h3 : 3 ≤ b.length)
    (hsum : byteAt b (b.length - 2) = bcc (slice b 0 (b.length - 2)))
    (hi : i < b.length - 1) (hv : v ≠ byteAt b i) :
    byteAt (b.set i v) (b.length - 2) ≠ bcc (slice (b.set i v) 0 (b.length - 2)) := by
  intro hset
  have hold := (bccStreams.2.2 b _ rfl h3).1 hsum
  have hnew := (bccStreams.2.2 (b.set i v) _ List.length_set h3).1 hset
  rw [slice_zero_set] at hnew
  have hlen : i < (slice b 0 (b.length - 1)).length := by rwa [slice_length (by omega)]
  have hbyte : byteAt (slice b 0 (b.length - 1)) i = byteAt b i := byteAt_take hi
  exact hv (((xorAll_set_eq_iff hlen).1 (hnew.trans hold.symm)).trans hbyte)

/-! ## A frame that parses, with one byte replaced (R163) -/

section
variable {cfg : Config} {b : List Byte} {es : Bool} {pf : ParsedFrame} (h : parseFrame cfg b es = .ok pf)
include h

theorem five_le_length_of_parseFrame : 5 ≤ b.length := by
  obtain ⟨-, -, -, hmin, -⟩ := (parseFrame_ok_iff cfg b es pf).1 h
  rw [minFrame_eq] at hmin
  omega

theorem parseFrame_set_header {v : Byte} (hv : v ≠ byteAt b 0) :
    parseFrame cfg (b.set 0 v) es = .error .malformedResponse := by
  obtain ⟨h2, h0, -⟩ := (parseFrame_ok_iff cfg b es pf).1 h
  refine parseFrame_of_badHeader (by rw [List.length_set]; omega) ?_
  rwa [byteAt_set_same v (by omega), ← h0]

/-- A smaller length byte leaves bytes over. -/
theorem parseFrame_set_length_of_lt {v : Byte} (hv : v.toNat < (byteAt b 1).toNat) :
    parseFrame cfg (b.set 1 v) es = .error .malformedResponse := by
  obtain ⟨h2, h0, hn, -⟩ := (parseFrame_ok_iff cfg b es pf).1 h
  refine parseFrame_of_surplus (by rwa [List.length_set])
    ((byteAt_set_other b v Nat.one_ne_zero).trans h0) ?_
  rw [byteAt_set_same v h2, List.length_set]
  omega

/-- A larger length byte leaves bytes missing. -/
theorem parseFrame_set_length_of_gt {v : Byte} (hv : (byteAt b 1).toNat < v.toNat) :
    parseFrame cfg (b.set 1 v) es = .error .incomplete := by
  obtain ⟨h2, h0, hn, hmin, -⟩ := (parseFrame_ok_iff cfg b es pf).1 h
  have h1 : byteAt (b.set 1 v) 1 = v := byteAt_set_same v h2
  refine parseFrame_of_missing (by rwa [List.length_set])
    ((byteAt_set_other b v Nat.one_ne_zero).trans h0) ?_ ?_
  · rw [h1]
    omega
  · rw [h1, List.length_set]
    omega

/-- With its header and length byte kept, a frame is still complete: the terminator and the checksum decide. -/
theorem parseFrame_set_of_two_le {i : Nat} {v : Byte} (hi : 2 ≤ i) :
    parseFrame cfg (b.set i v) es =
      if byteAt (b.set i v) (b.length - 1) ≠ TERM then .error .malformedResponse
      else if byteAt (b.set i v) (b.length - 2) ≠ bcc (slice (b.set i v) 0 (b.length - 2)) then
        .error .checksumMismatch
      else .ok (splitFrame (b.set i v) b.length es) := by
  obtain ⟨-, h0, hn, hmin, -⟩ := (parseFrame_ok_iff cfg b es pf).1 h
  rw [parseFrame_of_complete, List.length_set]
  · rwa [byteAt_set_other b v (by omega)]
  · rwa [byteAt_set_other b v (by omega), List.length_set]
  · rwa [List.length_set]

theorem parseFrame_set_terminator {v : Byte} (hv : v ≠ byteAt b (b.length - 1)) :
    parseFrame cfg (b.set (b.length - 1) v) es = .error .malformedResponse := by
  have h5 := five_le_length_of_parseFrame h
  obtain ⟨-, -, -, -, hterm, -⟩ := (parseFrame_ok_iff cfg b es pf).1 h
  rw [parseFrame_set_of_two_le h (by omega), byteAt_set_same v (by omega)]
  exact if_pos (hterm ▸ hv)

/-- A change between the length byte and the terminator keeps both, and breaks the checksum
(`checksum_set_ne`). -/
theorem parseFrame_set_inner {i : Nat} {v : Byte} (h2 : 2 ≤ i) (hi : i < b.length - 1) (hv : v ≠ byteAt b i) :
    parseFrame cfg (b.set i v) es = .error .checksumMismatch := by
  obtain ⟨-, -, -, -, hterm, hsum, -⟩ := (parseFrame_ok_iff cfg b es pf).1 h
  rw [parseFrame_set_of_two_le h h2, byteAt_set_other b v hi.ne, if_neg (not_not.2 hterm)]
  exact if_pos (checksum_set_ne (by omega) hsum hi hv)

end

/-! ## The obligations -/

/-- Settles O27, by the place of the changed byte: header, length byte, terminator, or any other. -/
theorem oneByteCorruptionNeverParses : Obligations.OneByteCorruptionNeverParses := by
  intro cfg b es pf i v h hi hv
  have h5 := five_le_length_of_parseFrame h
  match i with
  | 0 => rw [parseFrame_set_header h hv, if_pos (.inl rfl)]
  | 1 =>
    obtain hlt | hgt := Nat.lt_or_gt_of_ne (BitVec.toNat_ne.1 hv)
    · rw [parseFrame_set_length_of_lt h hlt, if_pos (.inr (.inr ⟨rfl, hlt⟩))]
    · rw [parseFrame_set_length_of_gt h hgt, if_neg (by omega), if_pos rfl]
  | i + 2 =>
    by_cases hlast : i + 2 = b.length - 1
    · rw [hlast] at hv ⊢
      rw [parseFrame_set_terminator h hv, if_pos (.inr (.inl rfl))]
    · rw [parseFrame_set_inner h (by omega) (by omega) hv, if_neg (by omega), if_neg (by omega)]

/-- Settles O45: neither parser interprets a frame of a command it does not expect. -/
theorem unexpectedCommandIsMalformed : Obligations.UnexpectedCommandIsMalformed :=
  fun _ _ h => ⟨exec_respond_of_unexpected .read h, exec_respond_of_unexpected .write h⟩

/-- Settles O46: neither parser gets past a frame that does not parse. -/
theorem frameLayerErrorsPropagate : Obligations.FrameLayerErrorsPropagate :=
  fun _ _ h => ⟨exec_respond_of_parse_error .read h, exec_respond_of_parse_error .write h⟩

end Sys2Proof.Machine
end

section
/-! Which error kinds each instruction can end with (R171), and when one of them does: `PayloadTooLarge`
(R172). -/

namespace Sys2Proof.Machine

/-! ## The error kind on `ERR`, by how an instruction ends -/

/-- A frame row raises what its operation raises (log 6). -/
theorem raisableKinds_runs (i : Instr) : raisableKinds i.runs = raisableKinds i := by cases i <;> rfl

/-- A one-shot operation that shows an error kind computed it (R170). -/
theorem State.conclude_err_eq_some_iff {s : State} {a : Except ErrorKind Written} {e : ErrorKind} :
    (s.conclude a).res.err = some e ↔ a = .error e := by
  cases a with
  | ok w => exact ⟨nofun, nofun⟩
  | error e' => simp [State.conclude_error]

theorem State.FeedEnd.err_raisable {s t : State} {d : Deframer} {e : ErrorKind} (h : s.FeedEnd t d)
    (he : t.res.err = some e) : e ∈ raisableKinds .dfrFeed := by
  obtain ⟨v, e', hraisable, rfl⟩ | ⟨f, pf, -, rfl⟩ := h
  · cases he
    exact hraisable
  · cases he

/-- A payload that does not fit is not built (R110, R111). -/
theorem exec_frmBuild_of_tooLong {s : State} (h : s.ops.ibuf.length > 250 + s.cfg.lenExcl.val) :
    exec .frmBuild s = .next (s.raise .payloadTooLarge) := by
  rw [exec, execFrmBuild, (buildFrame_error_iff _ _ _ _).2 ⟨h, rfl⟩, State.emitOp_error]

/-! ## The obligations -/

/-- Settles O59: a one-shot instruction shows the kind its operation computed (`answer_error_raisable`),
`DFR.INIT` shows none, and a feed shows one of its own (`State.FeedEnd`). -/
theorem errorKindsPerInstruction : Obligations.ErrorKindsPerInstruction := by
  intro i s t e h he
  obtain hs | rfl | rfl := i.oneShot_or_deframer
  · obtain ⟨a, ha, rfl⟩ := (exec_oneShot_next_iff hs).1 h
    obtain rfl := State.conclude_err_eq_some_iff.1 he
    exact raisableKinds_runs i ▸ answer_error_raisable ha
  · rw [execDfrInit_next h] at he
    cases he
  · exact (execDfrFeed_end h).2.2.err_raisable he

/-- Settles O21: a payload is too long (`exec_frmBuild_of_tooLong`) or is built (O20); the command builders
do not have the kind in their lists (O59). -/
theorem payloadTooLargeExactlyWhenTooLong : Obligations.PayloadTooLargeExactlyWhenTooLong := by
  refine ⟨fun s => ?_, ?_⟩
  · obtain hlong | hfits := Nat.lt_or_ge (250 + s.cfg.lenExcl.val) s.ops.ibuf.length
    · exact ⟨_, exec_frmBuild_of_tooLong hlong, iff_of_true rfl hlong, fun _ => rfl⟩
    · exact ⟨_, frmBuildWritesTheFrame.2 s hfits, iff_of_false nofun hfits.not_gt,
        fun hlong => absurd hlong hfits.not_gt⟩
  · rintro s t (hread | hwrite) herr
    · exact absurd (errorKindsPerInstruction _ s t _ hread herr) (by decide)
    · exact absurd (errorKindsPerInstruction _ s t _ hwrite herr) (by decide)

end Sys2Proof.Machine
end
